-- ==== Sys2Proof/Word.lean ====
section
/-! DEFINITION. The words the core's registers and ports are made of (spec/00_scope.md section 4, "Widths"). -/

namespace Sys2Proof

/-- `u8`: one byte of the info field, of a frame or of the output stream. -/
abbrev Byte := BitVec 8

/-- A 16-bit pattern: an audio or baseband component, or a coefficient (`s16`, two's complement), or the CRC register (`u16`). -/
abbrev Half := BitVec 16

/-- `u32`: one register word of the host bus. -/
abbrev Word := BitVec 32

end Sys2Proof
end

