-- ==== Sys2Proof/Config.lean ====
section
/-! DEFINITION. What an implementation fixes (R7, R9 00_scope.md) and the free values the spec leaves open.

A free value is an opaque constant: no proof can see what it is. -/

namespace Sys2Proof.Config

/-- The most digipeater entries (R9). -/
def maxDigi : Nat := 8

/-- Capacity of INFO in bytes (R9). -/
def infoCap : Nat := 256

/-- The largest frame in bytes (R9). -/
def frameMax : Nat := 330

/-- Entries of the coefficient RAM (R9). -/
def coefDepth : Nat := 4096

/-- The largest interpolation factor (R9). -/
def lMax : Nat := 64

/-- DDS phase units per turn (R9). -/
def ddsMod : Nat := 240

/-- Audio samples per line bit, SPS = Fs/R (R7). -/
def sps : Nat := 40

/-- Free value: word `i` of COEF at power-on number `draw` (R147 70_reset_and_hazards.md, 93_implementation_defined.md). DESIGN CHOICE, log 5, safe. -/
opaque coefPowerOn (draw i : Nat) : BitVec 16

/-- Free value: byte `i` of INFO at power-on number `draw` (R35 10_state.md, R147). DESIGN CHOICE, log 5, safe. -/
opaque infoPowerOn (draw i : Nat) : BitVec 8

/-- Free value: byte `i` of FRAME before a START has written it (R146 70_reset_and_hazards.md). DESIGN CHOICE, log 5, safe. -/
opaque framePowerOn (draw i : Nat) : BitVec 8

/-- The OPEN parameter CORE_BASE: where the platform puts the register window (R44 20_memory.md, 92_eei_decisions.md D3). DESIGN CHOICE, log 11, safe.
The spec gives no width of a host address; 32 bits are the model's. DESIGN CHOICE, log 16, unsafe. -/
opaque coreBase : BitVec 32

end Sys2Proof.Config
end

