-- ==== Sys2Proof/Syntax.lean ====
section
/-! DEFINITION. The commands of the core: one constructor per row of spec/opcode_table.json (R63 30_encoding.md). -/

namespace Sys2Proof

/-- A command written to register CMD. The only operand is the info byte of PUSH_INFO (R62 30_encoding.md). -/
inductive Instr where
  /-- NOP (R118 46_commands.md). -/
  | nop
  /-- CLEAR (R119 46_commands.md). -/
  | clear
  /-- PUSH_INFO b (R120 46_commands.md). -/
  | pushInfo (b : Byte)
  /-- START (R121 46_commands.md). -/
  | start
  /-- SOFT_RESET (R122 46_commands.md). -/
  | softReset
  deriving DecidableEq, Repr

end Sys2Proof
end

