-- ==== Sys2Proof/Machine/State.lean ====
section
/-! DEFINITION. The state of the core as plain data, the reasons a step can stop, and the state after reset
(10_state.md, R146 70_reset_and_hazards.md). -/

namespace Sys2Proof.Machine

/-- The sequencer mode (R34 10_state.md). -/
inductive Mode where
  | idle
  | run
  | fault
  deriving DecidableEq, Repr

/-- The error kinds of ERRINFO.CODE (R128 60_exceptions.md); the codes 8..15 are never produced. -/
inductive ErrorKind where
  | none
  | invalidCallsign
  | invalidPath
  | oversizedInfo
  | sinkWriteError
  | internalInvariantFailure
  | illegalCommand
  | invalidConfig
  deriving DecidableEq, Repr

/-- The events that change the core's state (R114 46_commands.md). DEDUCED, log 1, safe. -/
inductive Event where
  /-- HostRead(addr), addr a byte offset of the window. -/
  | hostRead (addr : Byte)
  /-- HostWrite(addr, v). -/
  | hostWrite (addr : Byte) (v : Word)
  /-- The sink raises out_ready: an Accept if out_valid is 1 (R112 45_sample_sink.md). DEDUCED, log 3, safe. -/
  | sinkReady
  /-- SinkError (R113 45_sample_sink.md, R133 60_exceptions.md). -/
  | sinkError
  /-- HwReset (R144 70_reset_and_hazards.md). -/
  | hwReset
  deriving DecidableEq, Repr

/-- One of the internal memories: (index, word) pairs, strictly rising, one pair for each word written since power-on. DESIGN CHOICE, log 6, safe. -/
abbrev Memory (w : Nat) := List (Nat × BitVec w)

/-- A complex sample of two `s16` components (R94 43_fm_modulator.md). -/
structure Cplx where
  re : Half
  im : Half
  deriving DecidableEq, Repr

/-- ADDR_LO and the stored bits of ADDR_HI of one entry (R33 10_state.md). -/
structure AddrEntry where
  lo : Word
  hi : BitVec 24
  deriving DecidableEq, Repr

/-- The locked-class registers (R14, R15 10_state.md), stored bits only. -/
structure Regs where
  /-- CFG0[23:0] (R22). -/
  cfg0    : BitVec 24
  /-- CFG1.L (R23). -/
  l       : BitVec 7
  /-- CFG1.TPP (R23). -/
  tpp     : BitVec 8
  /-- CFG1.FLUSH (R23). -/
  flush   : BitVec 16
  /-- FM_K[15:0] (R24). -/
  fmK     : BitVec 16
  /-- INFO_MAX[8:0] (R25). -/
  infoMax : BitVec 9
  /-- COEF_PTR[11:0] (R31). -/
  coefPtr : BitVec 12
  /-- The address entries 0..9 (R33). -/
  addr    : Vector AddrEntry 10
  deriving DecidableEq, Repr

/-- The pipeline registers of R38 10_state.md, and the model's own position of the stream in them. DESIGN CHOICE, log 8, safe. -/
structure Pipe where
  /-- The ones counter c of the serializer (R78). -/
  ones      : BitVec 3
  /-- The NRZI level (R82). -/
  lvl       : Bool
  /-- The DDS phase φ, 0..239 (R85). -/
  phi       : BitVec 8
  /-- The FM phase ψ (R92). -/
  psi       : BitVec 32
  /-- The FIR delay line, newest first (R98). -/
  delay     : List Cplx
  /-- The flush counter: zero inputs still to come (R99). -/
  flushLeft : BitVec 16
  /-- Opening-flag bits still to send (R79). -/
  preLeft   : Nat
  /-- Frame bits already sent (R78). -/
  bitPos    : Nat
  /-- A stuffing 0 is owed before the next frame bit (R78). -/
  due       : Bool
  /-- Closing-flag bits still to send (R79). -/
  postLeft  : Nat
  /-- Audio samples still to send for the current symbol (R85). -/
  symLeft   : Nat
  /-- The bytes of the present sample that have not moved yet (R112 45_sample_sink.md). -/
  buf       : List Byte
  deriving DecidableEq, Repr

/-- Everything the spec gives the core, and the world around it as data (INVENTORY.md, State). -/
structure State where
  /-- The sequencer mode (R34). -/
  mode     : Mode
  /-- CTRL[1:0]: IE_DONE, IE_ERR (R18). -/
  ctrl     : BitVec 2
  /-- STATUS.DONE (R19). -/
  done     : Bool
  /-- STATUS.ERR (R19). -/
  err      : Bool
  /-- STATUS.OVF (R19). -/
  ovf      : Bool
  /-- STATUS.WIGN (R19). -/
  wign     : Bool
  /-- ERRINFO.CODE (R21). -/
  errKind  : ErrorKind
  /-- ERRINFO.INDEX (R21). -/
  errIndex : Byte
  /-- The locked-class registers (R14). -/
  regs     : Regs
  /-- INFO_LEN (R26). -/
  infoLen  : BitVec 9
  /-- FCS (R27). -/
  fcs      : BitVec 16
  /-- FRAME_LEN, which is also FLEN (R28, R37). -/
  frameLen : BitVec 9
  /-- BIT_COUNT (R29). -/
  bitCount : BitVec 32
  /-- OUTPOS, read as OUT_COUNT (R30, R39). -/
  outPos   : BitVec 32
  /-- The coefficient RAM COEF (R36). -/
  coef     : Memory 16
  /-- The info buffer INFO (R35). -/
  info     : Memory 8
  /-- The frame buffer FRAME (R37). -/
  frame    : Memory 8
  /-- The pipeline registers (R38). -/
  pipe     : Pipe
  /-- The model's own: which power-on this is, what the free values of Config are applied to. DESIGN CHOICE, log 5, safe. -/
  draw     : Nat
  /-- The model's own: the environment's events, first to happen first. DESIGN CHOICE, log 1, safe. -/
  inbox    : List Event
  /-- The model's own: words HostRead has returned, newest first. DESIGN CHOICE, log 4, safe. -/
  hostGot  : List Word
  /-- The model's own: bytes the sink has accepted, newest first. DESIGN CHOICE, log 4, safe. -/
  sinkGot  : List Byte
  deriving DecidableEq, Repr

/-- Why the machine stops. The spec gives the core no stop of this kind: its own mode FAULT is a state the core goes on from. -/
inductive Fault where
  /-- Raised by the sink acceptance in a RUN state whose pipeline is at its end, where R124 46_commands.md has no byte to move. No run reaches such a
  state (Safety.lean, `Inv`). Safe: the model stops. DESIGN CHOICE, log 9, safe. -/
  | noOutputByte
  deriving DecidableEq, Repr

/-- Why a command has no meaning in the model. -/
inductive Refusal where
  /-- Raised by no arm of exec: every command has its meaning. Safe. -/
  | notModelled (mnemonic : String)
  deriving DecidableEq, Repr

/-- Six spaces with SSID 0 (R33). -/
def AddrEntry.blank : AddrEntry := ⟨0x20202020#32, 0x002020#24⟩

/-- "APRS  " with SSID 0, the default destination (R33). -/
def AddrEntry.aprs : AddrEntry := ⟨0x53525041#32, 0x002020#24⟩

/-- The locked-class registers after reset (R146). -/
def Regs.reset : Regs where
  cfg0    := 0x010104#24
  l       := 50#7
  tpp     := 32#8
  flush   := 0#16
  fmK     := 13653#16
  infoMax := 256#9
  coefPtr := 0#12
  addr    := #v[.aprs, .blank, .blank, .blank, .blank, .blank, .blank, .blank, .blank, .blank]

/-- The pipeline registers after reset: R146 leaves them unspecified and not observable. DESIGN CHOICE, log 7, unsafe. -/
def Pipe.reset : Pipe where
  ones      := 0#3
  lvl       := false
  phi       := 0#8
  psi       := 0#32
  delay     := List.replicate 32 ⟨0#16, 0#16⟩
  flushLeft := 0#16
  preLeft   := 0
  bitPos    := 0
  due       := false
  postLeft  := 0
  symLeft   := 0
  buf       := []

/-- The machine right after reset (R144, R146 70_reset_and_hazards.md), at power-on number 0 with no event in store. -/
def State.reset : State where
  mode     := .idle
  ctrl     := 0#2
  done     := false
  err      := false
  ovf      := false
  wign     := false
  errKind  := .none
  errIndex := 0#8
  regs     := Regs.reset
  infoLen  := 0#9
  fcs      := 0#16
  frameLen := 0#9
  bitCount := 0#32
  outPos   := 0#32
  coef     := []
  info     := []
  frame    := []
  pipe     := Pipe.reset
  draw     := 0
  inbox    := []
  hostGot  := []
  sinkGot  := []

end Sys2Proof.Machine
end

