-- ==== Sys2Proof/Machine/Ops.lean ====
section
/-! DEFINITION. The named operations over the internal memories and the registers: memory read and write, recording an error
(the core's trap entry) and acknowledging it (its trap return), the lock, and reset. -/

namespace Sys2Proof.Machine

/-- The written word at index `i`, if `i` has been written since power-on. -/
def Memory.lookup {w : Nat} (i : Nat) : Memory w → Option (BitVec w)
  | [] => none
  | (j, v) :: rest => if i = j then some v else Memory.lookup i rest

/-- Reading a memory word; `powerOn` gives what an unwritten word holds (R147 70_reset_and_hazards.md). -/
def Memory.read {w : Nat} (powerOn : Nat → BitVec w) (m : Memory w) (i : Nat) : BitVec w :=
  (Memory.lookup i m).getD (powerOn i)

/-- Writing a memory word, keeping the indices strictly rising. -/
def Memory.write {w : Nat} (i : Nat) (v : BitVec w) : Memory w → Memory w
  | [] => [(i, v)]
  | (j, u) :: rest =>
    if i < j then (i, v) :: (j, u) :: rest
    else if i = j then (i, v) :: rest
    else (j, u) :: Memory.write i v rest

/-- Writing consecutive words from index `i` on. -/
def Memory.writeAll {w : Nat} (i : Nat) : List (BitVec w) → Memory w → Memory w
  | [], m => m
  | v :: vs, m => Memory.writeAll (i + 1) vs (Memory.write i v m)

/-- The canonical form from index `lo` on: strictly rising indices, all below `bound`. -/
def Memory.wfFrom {w : Nat} (bound : Nat) : Nat → Memory w → Bool
  | _, [] => true
  | lo, (j, _) :: rest => decide (lo ≤ j) && decide (j < bound) && Memory.wfFrom bound (j + 1) rest

/-- The canonical form of a memory of `bound` words. DESIGN CHOICE, log 6, safe. -/
def Memory.wf {w : Nat} (bound : Nat) (m : Memory w) : Bool := Memory.wfFrom bound 0 m

/-- COEF[i] (R36 10_state.md). -/
def State.coefWord (s : State) (i : Nat) : Half := Memory.read (Config.coefPowerOn s.draw) s.coef i

/-- INFO[i] (R35 10_state.md). -/
def State.infoByte (s : State) (i : Nat) : Byte := Memory.read (Config.infoPowerOn s.draw) s.info i

/-- FRAME[i] (R37 10_state.md). -/
def State.frameByte (s : State) (i : Nat) : Byte := Memory.read (Config.framePowerOn s.draw) s.frame i

/-- INFO[0 .. INFO_LEN-1], the information field of the next frame (R35). -/
def State.infoBytes (s : State) : List Byte := (List.range s.infoLen.toNat).map s.infoByte

/-- FRAME[0 .. FLEN-1], the frame last built (R37). -/
def State.frameBytes (s : State) : List Byte := (List.range s.frameLen.toNat).map s.frameByte

/-- The core is locked when mode ≠ IDLE (R34 10_state.md). -/
def State.locked (s : State) : Bool := s.mode != .idle

/-- A write or command refused because the core is locked sets WIGN (R14 10_state.md, R117 46_commands.md). -/
def State.setWign (s : State) : State := { s with wign := true }

/-- RECORDING an error, the core's only exception entry (R129 60_exceptions.md): the first error wins ERRINFO, a later one sets OVF. -/
def State.raise (k : ErrorKind) (index : Byte) (s : State) : State :=
  if s.err then { s with ovf := true } else { s with errKind := k, errIndex := index, err := true }

/-- The W1C write of STATUS, the core's return from an exception (R135 60_exceptions.md, R116 46_commands.md): bits 1 to 4 independently. -/
def State.ackStatus (v : Word) (s : State) : State :=
  { s with
    done := s.done && !v.getLsbD 1
    err  := s.err && !v.getLsbD 2
    ovf  := s.ovf && !v.getLsbD 3
    wign := s.wign && !v.getLsbD 4 }

/-- HARDWARE and SOFT RESET (R144, R145 70_reset_and_hazards.md): every item of R146 at once; COEF, the bytes of INFO and the power-on draw are
kept (R147). What the world outside holds is no part of the core and stays. DEDUCED, log 13, safe. -/
def State.resetCore (s : State) : State :=
  { State.reset with
    coef := s.coef, info := s.info, draw := s.draw
    inbox := s.inbox, hostGot := s.hostGot, sinkGot := s.sinkGot }

/-- The environment's next events are `es`. -/
def State.setInbox (es : List Event) (s : State) : State := { s with inbox := es }

/-- The word a HostRead returns reaches the host (R115 46_commands.md). -/
def State.giveHost (v : Word) (s : State) : State := { s with hostGot := v :: s.hostGot }

/-- A write of CTRL (R18 10_state.md). -/
def State.setCtrl (v : BitVec 2) (s : State) : State := { s with ctrl := v }

/-- A write of locked-class registers (R14 10_state.md). -/
def State.setRegs (r : Regs) (s : State) : State := { s with regs := r }

/-- COEF[COEF_PTR] <- v, then COEF_PTR <- (COEF_PTR + 1) mod 4096 (R32 10_state.md). -/
def State.pushCoef (v : Half) (s : State) : State :=
  { s with
    coef := Memory.write s.regs.coefPtr.toNat v s.coef
    regs := { s.regs with coefPtr := s.regs.coefPtr + 1#12 } }

/-- INFO_LEN <- 0 (R119 46_commands.md). -/
def State.clearInfo (s : State) : State := { s with infoLen := 0#9 }

/-- INFO[INFO_LEN] <- b; INFO_LEN <- INFO_LEN + 1 (R120 46_commands.md). -/
def State.pushInfoByte (b : Byte) (s : State) : State :=
  { s with
    info := Memory.write s.infoLen.toNat b s.info
    infoLen := s.infoLen + 1#9 }

end Sys2Proof.Machine
end

