-- ==== Sys2Proof/Machine/Operands.lean ====
section
/-! DEFINITION. The operand forms: the register a byte offset reaches (R15, R42 to R44), the named fields of the registers
(R18, R22, R23, R33 10_state.md; R65 30_encoding.md), and the host address of the window. -/

namespace Sys2Proof.Machine

/-- The registers of the map of R15 10_state.md. -/
inductive Reg where
  | id | version | ctrl | status | cmd | errInfo | cfg0 | cfg1 | fmK | infoMax | infoLen | fcs | frameLen | bitCount
  | outCount | coefPtr | coefData
  | addrLo (e : Fin 10)
  | addrHi (e : Fin 10)
  deriving DecidableEq, Repr

/-- The word slot addr[7:2] of a byte offset: bits [1:0] are ignored (R42 20_memory.md). -/
def wordSlot (addr : Byte) : Nat := (addr.extractLsb' 2 6).toNat

/-- The address-entry register of slot 32 + k, k < 20 (R33): entry k/2, low word if k is even. -/
def addrReg (k : Nat) (h : k < 20) : Reg :=
  if k % 2 = 0 then .addrLo ⟨k / 2, by omega⟩ else .addrHi ⟨k / 2, by omega⟩

/-- The register a byte offset reaches; none for an unmapped offset (R15 10_state.md, R43 20_memory.md). -/
def regAt (addr : Byte) : Option Reg :=
  match wordSlot addr with
  | 0 => some .id
  | 1 => some .version
  | 2 => some .ctrl
  | 3 => some .status
  | 4 => some .cmd
  | 5 => some .errInfo
  | 6 => some .cfg0
  | 7 => some .cfg1
  | 8 => some .fmK
  | 9 => some .infoMax
  | 10 => some .infoLen
  | 11 => some .fcs
  | 12 => some .frameLen
  | 13 => some .bitCount
  | 14 => some .outCount
  | 15 => some .coefPtr
  | 16 => some .coefData
  | n => if h : 32 ≤ n ∧ n < 52 then some (addrReg (n - 32) (by omega)) else none

/-- The byte offset of a register (R15 10_state.md). -/
def Reg.offset : Reg → Byte
  | .id => 0x00#8
  | .version => 0x04#8
  | .ctrl => 0x08#8
  | .status => 0x0C#8
  | .cmd => 0x10#8
  | .errInfo => 0x14#8
  | .cfg0 => 0x18#8
  | .cfg1 => 0x1C#8
  | .fmK => 0x20#8
  | .infoMax => 0x24#8
  | .infoLen => 0x28#8
  | .fcs => 0x2C#8
  | .frameLen => 0x30#8
  | .bitCount => 0x34#8
  | .outCount => 0x38#8
  | .coefPtr => 0x3C#8
  | .coefData => 0x40#8
  | .addrLo e => BitVec.ofNat 8 (0x80 + 8 * e.val)
  | .addrHi e => BitVec.ofNat 8 (0x84 + 8 * e.val)

/-- The locked-class registers (R14, R15 10_state.md). -/
def Reg.lockedClass : Reg → Bool
  | .cfg0 | .cfg1 | .fmK | .infoMax | .coefPtr | .coefData | .addrLo _ | .addrHi _ => true
  | _ => false

/-- The offset a host address reaches, if it lies in the window at CORE_BASE (R44 20_memory.md). A host address has 32 bits, and CORE_BASE + addr
wraps modulo 2^32: the spec gives no width. DESIGN CHOICE, log 16, unsafe. -/
def windowOffset (hostAddr : Word) : Option Byte :=
  if (hostAddr - Config.coreBase).toNat < 256 then some ((hostAddr - Config.coreBase).setWidth 8) else none

/-- CTRL.IE_DONE (R18). -/
def State.ieDone (s : State) : Bool := s.ctrl.getLsbD 0

/-- CTRL.IE_ERR (R18). -/
def State.ieErr (s : State) : Bool := s.ctrl.getLsbD 1

/-- CFG0.NPRE, the opening flags (R22). -/
def Regs.npre (r : Regs) : Nat := (r.cfg0.extractLsb' 0 8).toNat

/-- CFG0.NPOST, the closing flags (R22). -/
def Regs.npost (r : Regs) : Nat := (r.cfg0.extractLsb' 8 8).toNat

/-- CFG0.NRZI_INIT (R22). -/
def Regs.nrziInit (r : Regs) : Bool := r.cfg0.getLsbD 16

/-- CFG0.POL (R22). -/
def Regs.pol (r : Regs) : Bool := r.cfg0.getLsbD 17

/-- CFG0.FMT (R22). -/
def Regs.fmt (r : Regs) : BitVec 2 := r.cfg0.extractLsb' 18 2

/-- CFG0.NDIGI (R22). -/
def Regs.ndigi (r : Regs) : Nat := (r.cfg0.extractLsb' 20 4).toNat

/-- The output formats (R106 45_sample_sink.md). -/
inductive Format where
  | iqS8
  | iqF32
  | pcmF32
  deriving DecidableEq, Repr

/-- The format an FMT code selects; code 3 is reserved (R65 30_encoding.md, R106 45_sample_sink.md). -/
def Regs.format (r : Regs) : Option Format :=
  match r.fmt.toNat with
  | 0 => some .iqS8
  | 1 => some .iqF32
  | 2 => some .pcmF32
  | _ => none

/-- The six character fields CH0..CH5 of an entry (R33 10_state.md, R46 20_memory.md). -/
def AddrEntry.chars (e : AddrEntry) : List Byte :=
  [e.lo.extractLsb' 0 8, e.lo.extractLsb' 8 8, e.lo.extractLsb' 16 8, e.lo.extractLsb' 24 8,
   e.hi.extractLsb' 0 8, e.hi.extractLsb' 8 8]

/-- The SSID field of an entry (R33). -/
def AddrEntry.ssid (e : AddrEntry) : Byte := e.hi.extractLsb' 16 8

/-- ADDR entry k; only k < 10 exist (R33). -/
def Regs.entry (r : Regs) (k : Nat) : AddrEntry := r.addr.getD k .blank

end Sys2Proof.Machine
end

