-- ==== Sys2Proof/Machine/FrameBuilder.lean ====
section
/-! DEFINITION. The frame builder and the FCS (40_frame_builder.md), and START's checks (R130 60_exceptions.md). -/

namespace Sys2Proof.Machine

/-- legal(ch): '0'..'9' or 'A'..'Z' (R69). -/
def legalChar (c : Byte) : Bool :=
  (decide (0x30 ≤ c.toNat) && decide (c.toNat ≤ 0x39)) || (decide (0x41 ≤ c.toNat) && decide (c.toNat ≤ 0x5A))

/-- CALLSIGN CHECK (R69): at least one leading legal character, then only spaces. -/
def AddrEntry.callOk (e : AddrEntry) : Bool :=
  decide (1 ≤ (e.chars.takeWhile legalChar).length) && (e.chars.dropWhile legalChar).all (· == 0x20#8)

/-- SSID CHECK (R70). -/
def AddrEntry.ssidOk (e : AddrEntry) : Bool := decide (e.ssid.toNat ≤ 15)

/-- An entry START accepts (R69, R70). -/
def AddrEntry.ok (e : AddrEntry) : Bool := e.callOk && e.ssidOk

/-- ADDRESS ENCODE (R71): six characters shifted left by one, then the SSID byte. -/
def addrBytes (e : AddrEntry) (last : Bool) : List Byte :=
  e.chars.map (fun c : Byte => (c <<< 1 : Byte)) ++ [0x60#8 ||| (e.ssid <<< 1) ||| (if last then 1#8 else 0#8)]

/-- n_addr = 2 + NDIGI (R68). -/
def Regs.nAddr (r : Regs) : Nat := 2 + r.ndigi

/-- The address part of the frame; the last-address bit is set on exactly the last entry (R72, R73). -/
def Regs.addrField (r : Regs) : List Byte :=
  (List.range r.nAddr).flatMap fun k => addrBytes (r.entry k) (k + 1 == r.nAddr)

/-- The frame before its FCS (R73): addresses, control 0x03, PID 0xF0, info. -/
def State.frameBody (s : State) : List Byte := s.regs.addrField ++ [0x03#8, 0xF0#8] ++ s.infoBytes

/-- The bits of a byte in line order, least significant first (R47 20_memory.md). -/
def byteBits (b : Byte) : List Bool := (List.range 8).map b.getLsbD

/-- The bits of a byte sequence in line order (R47). -/
def lineOrder (bytes : List Byte) : List Bool := bytes.flatMap byteBits

/-- One step of the CRC register (R74). -/
def crcStep (crc : BitVec 16) (b : Bool) : BitVec 16 :=
  if crc.getLsbD 0 ^^ b then (crc >>> 1) ^^^ 0x8408#16 else crc >>> 1

/-- CRCREG (R74): the register before the final XOR. -/
def crcReg (bytes : List Byte) : BitVec 16 := (lineOrder bytes).foldl crcStep 0xFFFF#16

/-- FCS16 (R75): the final XOR is the complement, applied once. -/
def fcs16 (bytes : List Byte) : BitVec 16 := crcReg bytes ^^^ 0xFFFF#16

/-- A body with its FCS, low byte first (R73, R48 20_memory.md). -/
def withFcs (body : List Byte) : List Byte :=
  body ++ [(fcs16 body).extractLsb' 0 8, (fcs16 body).extractLsb' 8 8]

/-- FRAME ASSEMBLY (R73). -/
def State.buildFrame (s : State) : List Byte := withFcs s.frameBody

/-- START's configuration check (R130, check 1): true if the configuration is legal. -/
def Regs.configOk (r : Regs) : Bool :=
  r.npre != 0 && r.npost != 0 && r.format.isSome
    && r.l.toNat != 0 && decide (r.l.toNat ≤ Config.lMax) && r.tpp.toNat != 0
    && decide (r.l.toNat * r.tpp.toNat ≤ Config.coefDepth) && decide (r.infoMax.toNat ≤ Config.infoCap)

/-- The first digipeater entry from `k` on, among `n`, that is not legal (R130, check 4). -/
def Regs.badEntry (r : Regs) : Nat → Nat → Option Nat
  | _, 0 => none
  | k, n + 1 => if (r.entry k).ok then r.badEntry (k + 1) n else some k

/-- START CHECKS AND THEIR ORDER (R130): the first that fails, as kind and index; none if START is accepted. -/
def State.check (s : State) : Option (ErrorKind × Byte) :=
  if !s.regs.configOk then some (.invalidConfig, 0xFF#8)
  else if !(s.regs.entry 0).ok then some (.invalidCallsign, 0#8)
  else if !(s.regs.entry 1).ok then some (.invalidCallsign, 1#8)
  else if Config.maxDigi < s.regs.ndigi then some (.invalidPath, 0xFF#8)
  else match s.regs.badEntry 2 s.regs.ndigi with
    | some e => some (.invalidPath, BitVec.ofNat 8 e)
    | none =>
      if s.regs.infoMax.toNat < s.infoLen.toNat then some (.oversizedInfo, 0xFF#8) else none

end Sys2Proof.Machine
end

