-- ==== Sys2Proof/Machine/Serializer.lean ====
section
/-! DEFINITION. The bit serializer, bit-stuffing and NRZI (41_serializer_nrzi.md): as whole sequences, and as the streaming stage that gives
one line bit at a time from the pipeline registers. -/

namespace Sys2Proof.Machine

/-- FLAGBITS (R77): the bits of 0x7E in line order. -/
def flagBits : List Bool := byteBits 0x7E#8

/-- The bits of `n` flags (R79). -/
def flags (n : Nat) : List Bool := (List.replicate n flagBits).flatten

/-- BIT-STUFF (R78) from a ones counter `c` on: after the fifth 1 in a row comes a 0, at once. -/
def stuff : Nat → List Bool → List Bool
  | _, [] => []
  | c, b :: bs =>
    if b then (if c + 1 = 5 then b :: false :: stuff 0 bs else b :: stuff (c + 1) bs)
    else b :: stuff 0 bs

/-- The stuffed-bit count S of R78. -/
def stuffCount : Nat → List Bool → Nat
  | _, [] => 0
  | c, b :: bs =>
    if b then (if c + 1 = 5 then stuffCount 0 bs + 1 else stuffCount (c + 1) bs)
    else stuffCount 0 bs

/-- DATA (R79): the stuffed bits of a frame. -/
def dataBits (frame : List Byte) : List Bool := stuff 0 (lineOrder frame)

/-- LINE BIT SEQUENCE (R79). -/
def lineBits (npre npost : Nat) (frame : List Byte) : List Bool :=
  flags npre ++ dataBits frame ++ flags npost

/-- Whether a run of six 1s occurs, with `r` 1s just before (R81 a, R134 60_exceptions.md). -/
def hasSixOnes : Nat → List Bool → Bool
  | _, [] => false
  | r, b :: bs => if b then (r + 1 == 6) || hasSixOnes (r + 1) bs else hasSixOnes 0 bs

/-- MonitorOK (R134 60_exceptions.md). -/
def monitorOk (frame : List Byte) : Bool :=
  crcReg frame == 0xF0B8#16 && !hasSixOnes 0 (dataBits frame)

/-- The NRZI level after a line bit (R82): 0 toggles, 1 holds. -/
def nrziNext (lvl b : Bool) : Bool := if b then lvl else !lvl

/-- NRZI ENCODE (R82) from a level on. -/
def nrzi : Bool → List Bool → List Bool
  | _, [] => []
  | lvl, b :: bs => nrziNext lvl b :: nrzi (nrziNext lvl b) bs

/-- A flag bit when `left` bits of a whole number of flags are still to send (R77). -/
def flagBitAt (left : Nat) : Bool := flagBits.getD ((8 - left % 8) % 8) false

/-- The next line bit of a frame from the pipeline registers, and the registers after it (R77 to R79); none when LINE is at its end. -/
def Pipe.nextBit (frame : List Bool) (p : Pipe) : Option (Bool × Pipe) :=
  if 0 < p.preLeft then some (flagBitAt p.preLeft, { p with preLeft := p.preLeft - 1 })
  else if p.due then some (false, { p with due := false })
  else match frame[p.bitPos]? with
    | some true =>
      if p.ones.toNat + 1 = 5 then some (true, { p with bitPos := p.bitPos + 1, ones := 0#3, due := true })
      else some (true, { p with bitPos := p.bitPos + 1, ones := p.ones + 1#3 })
    | some false => some (false, { p with bitPos := p.bitPos + 1, ones := 0#3 })
    | none =>
      if 0 < p.postLeft then some (flagBitAt p.postLeft, { p with postLeft := p.postLeft - 1 }) else none

/-- The next NRZI symbol (R82): the level after the next line bit. -/
def Pipe.nextSymbol (frame : List Bool) (p : Pipe) : Option Pipe :=
  match p.nextBit frame with
  | some (b, q) => some { q with lvl := nrziNext q.lvl b }
  | none => none

end Sys2Proof.Machine
end

