-- ==== Sys2Proof/Machine/Tones.lean ====
section
/-! DEFINITION. The Bell-202 AFSK synthesizer (42_afsk_dds.md) and the narrowband FM modulator (43_fm_modulator.md): as whole sequences, and as
the streaming stages that give one audio sample and one baseband sample at a time. -/

namespace Sys2Proof.Machine

/-- TONE SELECT (R84): 6 phase units a sample for mark (1200 Hz), 11 for space (2200 Hz); POL swaps them. -/
def toneInc (pol sym : Bool) : Nat := if sym ^^ pol then 6 else 11

/-- The DDS phase after one sample (R85). -/
def ddsNext (inc : Nat) (phi : BitVec 8) : BitVec 8 := BitVec.ofNat 8 ((phi.toNat + inc) % Config.ddsMod)

/-- The audio sample emitted at a phase, an s16 (R85, R87). -/
def ddsOut (phi : BitVec 8) : Half := BitVec.ofInt 16 (sin240 phi.toNat)

/-- `n` samples of one tone from phase φ (R85): update first, then emit. -/
def tone (inc : Nat) : Nat → BitVec 8 → List Half
  | 0, _ => []
  | n + 1, phi => ddsOut (ddsNext inc phi) :: tone inc n (ddsNext inc phi)

/-- The phase after `n` samples of one tone. -/
def tonePhase (inc : Nat) : Nat → BitVec 8 → BitVec 8
  | 0, phi => phi
  | n + 1, phi => tonePhase inc n (ddsNext inc phi)

/-- AUD (R85) of a symbol sequence from phase φ: 40 samples a symbol, the phase never reset between symbols. -/
def afsk (pol : Bool) : BitVec 8 → List Bool → List Half
  | _, [] => []
  | phi, sym :: syms =>
    tone (toneInc pol sym) Config.sps phi ++ afsk pol (tonePhase (toneInc pol sym) Config.sps phi) syms

/-- The FM phase after one audio sample (R92): ψ + s·K, exact, modulo 2^32. -/
def fmNext (k : BitVec 16) (psi : BitVec 32) (x : Half) : BitVec 32 :=
  BitVec.ofInt 32 ((psi.toNat : Int) + x.toInt * (k.toNat : Int))

/-- The table index ψ[31:22] (R92). -/
def fmIndex (psi : BitVec 32) : Nat := (psi.extractLsb' 22 10).toNat

/-- The baseband sample emitted at a phase: I = cos, Q = sin (R92). -/
def fmOut (psi : BitVec 32) : Cplx :=
  ⟨BitVec.ofInt 16 (sin1024 ((fmIndex psi + 256) % 1024)), BitVec.ofInt 16 (sin1024 (fmIndex psi))⟩

/-- BB (R92) of an audio sequence from phase ψ. -/
def fm (k : BitVec 16) : BitVec 32 → List Half → List Cplx
  | _, [] => []
  | psi, x :: xs => fmOut (fmNext k psi x) :: fm k (fmNext k psi x) xs

/-- The next audio sample from the pipeline registers (R85): a new symbol every 40 samples; none at the end of the line. -/
def Pipe.nextAudio (pol : Bool) (frame : List Bool) (p : Pipe) : Option (Half × Pipe) :=
  let emit (q : Pipe) : Half × Pipe :=
    let phi := ddsNext (toneInc pol q.lvl) q.phi
    (ddsOut phi, { q with phi := phi, symLeft := q.symLeft - 1 })
  if 0 < p.symLeft then some (emit p)
  else match p.nextSymbol frame with
    | some q => some (emit { q with symLeft := Config.sps })
    | none => none

/-- The next interpolator input from the pipeline registers (R92, R99): FM of the next audio sample, then the flush zeros; none at the end. -/
def Pipe.nextInput (r : Regs) (frame : List Bool) (p : Pipe) : Option (Cplx × Pipe) :=
  match p.nextAudio r.pol frame with
  | some (x, q) => some (fmOut (fmNext r.fmK q.psi x), { q with psi := fmNext r.fmK q.psi x })
  | none =>
    if p.flushLeft = 0#16 then none
    else some (⟨0#16, 0#16⟩, { p with flushLeft := p.flushLeft - 1#16 })

end Sys2Proof.Machine
end

