-- ==== Sys2Proof/Machine/Fir.lean ====
section
/-! DEFINITION. The polyphase FIR interpolator (44_fir_interpolator.md), in exact integer arithmetic. -/

namespace Sys2Proof.Machine

/-- An interpolator output word (I, Q); every value fits in 25 signed bits (R102). -/
abbrev YWord := Int × Int

/-- The delay line after an input (R98, R100): the input is the newest, the oldest of TPP is dropped. -/
def shiftIn (tpp : Nat) (x : Cplx) (d : List Cplx) : List Cplx := (x :: d).take tpp

/-- Σ_j h[t + j·L] · x_j over the delay line, newest first (R100), exact. -/
def branchSum (h : Nat → Int) (l : Nat) : Nat → List Int → Int
  | _, [] => 0
  | t, x :: xs => h t * x + branchSum h l (t + l) xs

/-- (ACC + 2^13) >> 14: round half up (R100). -/
def roundAcc (acc : Int) : Int := (acc + 2 ^ 13) / 2 ^ 14

/-- Y_p for a delay line (R100). -/
def branchOut (h : Nat → Int) (l p : Nat) (d : List Cplx) : YWord :=
  (roundAcc (branchSum h l p (d.map fun x => x.re.toInt)), roundAcc (branchSum h l p (d.map fun x => x.im.toInt)))

/-- Y_0 .. Y_{L-1} in branch order (R100). -/
def branches (h : Nat → Int) (l : Nat) (d : List Cplx) : List YWord :=
  (List.range l).map fun p => branchOut h l p d

/-- YOUT (R101) of an input sequence from a delay line. -/
def fir (h : Nat → Int) (l tpp : Nat) : List Cplx → List Cplx → List YWord
  | _, [] => []
  | d, x :: xs => branches h l (shiftIn tpp x d) ++ fir h l tpp (shiftIn tpp x d) xs

/-- COEF[t] as a signed integer (R36 10_state.md, R97). -/
def State.tap (s : State) (t : Nat) : Int := (s.coefWord t).toInt

end Sys2Proof.Machine
end

