-- ==== Sys2Proof/Machine/Flags.lean ====
section
/-! DEFINITION. The status bits, the error codes and the interrupt (R19, R21 10_state.md; R128, R136 60_exceptions.md). -/

namespace Sys2Proof.Machine

/-- The code of an error kind (R128 60_exceptions.md). -/
def ErrorKind.code : ErrorKind → Nat
  | .none => 0
  | .invalidCallsign => 1
  | .invalidPath => 2
  | .oversizedInfo => 3
  | .sinkWriteError => 4
  | .internalInvariantFailure => 5
  | .illegalCommand => 6
  | .invalidConfig => 7

/-- INTERRUPT (R136 60_exceptions.md): a level, a function of DONE, ERR and their enables. -/
def State.irq (s : State) : Bool := (s.done && s.ieDone) || (s.err && s.ieErr)

/-- A bit of a status word. -/
def bitAt (b : Bool) (k : Nat) : Nat := if b then 2 ^ k else 0

/-- What STATUS reads (R19 10_state.md, R115 46_commands.md). -/
def State.statusWord (s : State) : Word :=
  BitVec.ofNat 32
    (bitAt (s.mode == .run) 0 + bitAt s.done 1 + bitAt s.err 2 + bitAt s.ovf 3 + bitAt s.wign 4
      + bitAt (s.mode == .fault) 5 + bitAt s.irq 6)

/-- What ERRINFO reads (R21 10_state.md, R115 46_commands.md). -/
def State.errInfoWord (s : State) : Word :=
  BitVec.ofNat 32 (s.errIndex.toNat * 2 ^ 8 + s.errKind.code)

end Sys2Proof.Machine
end

