-- ==== Sys2Proof/Machine/SampleSink.lean ====
section
/-! DEFINITION. The sample sink (45_sample_sink.md): conversions, the output sequence of a transmission (R110, R123 46_commands.md), the streaming
pipeline that produces it, and the events of the output port. -/

namespace Sys2Proof.Machine

/-- IQ_S8 CONVERSION (R107): multiply by 127, truncate toward zero, clamp, two's-complement byte. -/
def s8 (y : Int) : Byte := BitVec.ofInt 8 (min (max (Int.tdiv (y * 127) 32768) (-128)) 127)

/-- The binary32 pattern of y / 2^15, |y| < 2^24 (R108). -/
def f32Bits (y : Int) : Nat :=
  if y = 0 then 0
  else
    let a := y.natAbs
    let e := Nat.log2 a
    (if y < 0 then 1 else 0) * 2 ^ 31 + (e + 112) * 2 ^ 23 + (a * 2 ^ (23 - e)) % 2 ^ 23

/-- FLOAT32 ENCODING (R108): four bytes, least significant first (R49 20_memory.md). -/
def f32 (y : Int) : List Byte :=
  (List.range 4).map fun k => BitVec.ofNat 8 (f32Bits y / 2 ^ (8 * k))

/-- The bytes of one interpolator output in a format (R110): I then Q. PCM_F32 has none. -/
def iqBytes (fmt : Format) (y : YWord) : List Byte :=
  match fmt with
  | .iqS8 => [s8 y.1, s8 y.2]
  | .iqF32 => f32 y.1 ++ f32 y.2
  | .pcmF32 => []

/-- LINE of the frame last built, under the present configuration (R79). -/
def State.line (s : State) : List Bool := lineBits s.regs.npre s.regs.npost s.frameBytes

/-- SYM (R82). -/
def State.symbols (s : State) : List Bool := nrzi s.regs.nrziInit s.line

/-- AUD (R85), from φ = 0. -/
def State.audio (s : State) : List Half := afsk s.regs.pol 0#8 s.symbols

/-- BB (R92), from ψ = 0. -/
def State.baseband (s : State) : List Cplx := fm s.regs.fmK 0#32 s.audio

/-- XIN (R99): BB, then FLUSH zeros. -/
def State.firInput (s : State) : List Cplx :=
  s.baseband ++ List.replicate s.regs.flush.toNat ⟨0#16, 0#16⟩

/-- The delay line at START: TPP zeros (R98). -/
def Regs.emptyDelay (r : Regs) : List Cplx := List.replicate r.tpp.toNat ⟨0#16, 0#16⟩

/-- YOUT (R101). -/
def State.firOutput (s : State) : List YWord :=
  fir s.tap s.regs.l.toNat s.regs.tpp.toNat s.regs.emptyDelay s.firInput

/-- OUTSEQ (R110, R123 46_commands.md) of the frame last built, under the present configuration and coefficients. -/
def State.outseq (s : State) : List Byte :=
  match s.regs.format with
  | some .pcmF32 => s.audio.flatMap fun x => f32 x.toInt
  | some fmt => s.firOutput.flatMap (iqBytes fmt)
  | none => []

/-- len(OUTSEQ) from the registers (R111), with B in BIT_COUNT. -/
def State.outLen (s : State) : Nat :=
  match s.regs.format with
  | some .iqS8 => 2 * s.regs.l.toNat * (Config.sps * s.bitCount.toNat + s.regs.flush.toNat)
  | some .iqF32 => 8 * s.regs.l.toNat * (Config.sps * s.bitCount.toNat + s.regs.flush.toNat)
  | some .pcmF32 => 4 * (Config.sps * s.bitCount.toNat)
  | none => 0

/-- The frame bits in line order, as the serializer reads them from FRAME (R47 20_memory.md). -/
def State.frameBits (s : State) : List Bool := lineOrder s.frameBytes

/-- One turn of the pipeline: the bytes of the next audio sample (PCM_F32) or of the L outputs of the next interpolator input (IQ formats), and
the registers after it; none when OUTSEQ is at its end (R123 46_commands.md, R112). The configuration, COEF and FRAME are read where they stand.
DEDUCED, log 14, safe. -/
def State.nextBytes (s : State) (p : Pipe) : Option (List Byte × Pipe) :=
  match s.regs.format with
  | none => none
  | some .pcmF32 =>
    match p.nextAudio s.regs.pol s.frameBits with
    | some (x, q) => some (f32 x.toInt, q)
    | none => none
  | some fmt =>
    match p.nextInput s.regs s.frameBits with
    | some (x, q) =>
      let d := shiftIn s.regs.tpp.toNat x q.delay
      some ((branches s.tap s.regs.l.toNat d).flatMap (iqBytes fmt), { q with delay := d })
    | none => none

/-- The byte at the port and the pipeline registers once it has moved (R112): the next waiting byte, or the first of the pipeline's next turn; none
when OUTSEQ is at its end. -/
def State.takeByte (s : State) : Option (Byte × Pipe) :=
  match s.pipe.buf with
  | b :: rest => some (b, { s.pipe with buf := rest })
  | [] =>
    match s.nextBytes s.pipe with
    | some (b :: rest, q) => some (b, { q with buf := rest })
    | _ => none

/-- out_valid = 1 exactly while mode = RUN (R112). -/
def State.outValid (s : State) : Bool := s.mode == .run

/-- out_data (R112): in RUN the byte OUTSEQ[OUTPOS], else 0. -/
def State.outData (s : State) : Byte :=
  if s.outValid then
    match s.takeByte with
    | some (b, _) => b
    | none => 0#8
  else 0#8

/-- NORMAL COMPLETION (R125 46_commands.md); the pipeline registers stay as they are. DESIGN CHOICE, log 12, unsafe. -/
def State.complete (s : State) : State := { s with mode := .idle, done := true }

/-- A byte moves to the sink and OUTPOS counts it (R124 46_commands.md). -/
def State.moveByte (b : Byte) (q : Pipe) (s : State) : State :=
  { s with
    outPos := s.outPos + 1#32
    sinkGot := b :: s.sinkGot
    pipe := q }

/-- After a byte has moved, the end of OUTSEQ completes the run (R124 46_commands.md). -/
def State.afterMove (s : State) : State := if s.outPos.toNat = s.outLen then s.complete else s

/-- The sink raises out_ready: SINK ACCEPTANCE in RUN (R124 46_commands.md, R112); no byte moves while out_valid = 0 (R112, R127
46_commands.md). DEDUCED, log 3, safe. -/
def sinkReady (s : State) : Host.Outcome State Fault Refusal :=
  if s.outValid then
    match s.takeByte with
    | none => .fault .noOutputByte
    | some (b, q) => .next (s.moveByte b q).afterMove
  else .next s

/-- SINK WRITE ERROR (R133 60_exceptions.md, R113): in RUN it is recorded and ends the run, the pipeline registers as they are
(DESIGN CHOICE, log 12, unsafe); else no effect. -/
def sinkError (s : State) : State :=
  if s.mode = .run then { s.raise .sinkWriteError 0xFF#8 with mode := .idle } else s

end Sys2Proof.Machine
end

