-- ==== Sys2Proof/Machine/Commands.lean ====
section
/-! DEFINITION. The five commands (R117 to R122 46_commands.md), an illegal command word, and the building blocks of START. -/

namespace Sys2Proof.Machine

/-- ILLEGAL COMMAND (R132 60_exceptions.md): IllegalCommand(w[7:0]) and no other effect, in every mode. -/
def illegalCommand (w : Word) (s : State) : State := s.raise .illegalCommand (w.extractLsb' 0 8)

/-- The pipeline registers at START (R38 10_state.md, R121). -/
def Regs.startPipe (r : Regs) : Pipe where
  ones      := 0#3
  lvl       := r.nrziInit
  phi       := 0#8
  psi       := 0#32
  delay     := r.emptyDelay
  flushLeft := r.flush
  preLeft   := 8 * r.npre
  bitPos    := 0
  due       := false
  postLeft  := 8 * r.npost
  symLeft   := 0
  buf       := []

/-- The register updates of an accepted START (R121): DONE, FRAME, FCS, FRAME_LEN, BIT_COUNT, OUTPOS and the pipeline. -/
def State.loadFrame (s : State) : State :=
  { s with
    done := false
    frame := Memory.writeAll 0 s.buildFrame s.frame
    frameLen := BitVec.ofNat 9 s.buildFrame.length
    fcs := fcs16 s.frameBody
    bitCount := BitVec.ofNat 32 (lineBits s.regs.npre s.regs.npost s.buildFrame).length
    outPos := 0#32
    pipe := s.regs.startPipe }

/-- EnterFault (R134 60_exceptions.md): the mode becomes FAULT and the failure is recorded. -/
def State.enterFault (s : State) : State := { s with mode := .fault }.raise .internalInvariantFailure 0xFF#8

/-- mode <- RUN (R121). -/
def State.enterRun (s : State) : State := { s with mode := .run }

/-- Start() of R121, in IDLE. -/
def State.startRun (s : State) : State :=
  match s.check with
  | some (k, index) => s.raise k index
  | none => if monitorOk s.buildFrame then s.loadFrame.enterRun else s.loadFrame.enterFault

/-- Push(b) of R120, in IDLE. -/
def State.push (b : Byte) (s : State) : State :=
  if min s.regs.infoMax.toNat Config.infoCap ≤ s.infoLen.toNat then s.raise .oversizedInfo 0xFF#8
  else s.pushInfoByte b

/-- NOP (R118): nothing, in every mode. -/
def execNop (s : State) : Host.Outcome State Fault Refusal := .next s

/-- CLEAR (R119); refused with WIGN while locked (R117). -/
def execClear (s : State) : Host.Outcome State Fault Refusal :=
  .next (if s.locked then s.setWign else s.clearInfo)

/-- PUSH_INFO b (R120); refused with WIGN while locked (R117). -/
def execPushInfo (b : Byte) (s : State) : Host.Outcome State Fault Refusal :=
  .next (if s.locked then s.setWign else s.push b)

/-- START (R121); refused with WIGN while locked (R117). -/
def execStart (s : State) : Host.Outcome State Fault Refusal :=
  .next (if s.locked then s.setWign else s.startRun)

/-- SOFT_RESET (R122, R145 70_reset_and_hazards.md): in every mode. -/
def execSoftReset (s : State) : Host.Outcome State Fault Refusal := .next s.resetCore

end Sys2Proof.Machine
end

