-- ==== Sys2Proof/Machine/Dispatch.lean ====
section
/-! DEFINITION. The meaning of each command, one arm per constructor of Instr (R117 46_commands.md). -/

namespace Sys2Proof.Machine

def exec (i : Instr) (s : State) : Host.Outcome State Fault Refusal :=
  match i with
  | .nop => Sys2Proof.Machine.execNop s
  | .clear => Sys2Proof.Machine.execClear s
  | .pushInfo b => Sys2Proof.Machine.execPushInfo b s
  | .start => Sys2Proof.Machine.execStart s
  | .softReset => Sys2Proof.Machine.execSoftReset s

end Sys2Proof.Machine
end

