-- ==== Sys2Proof/WellFormed.lean ====
section
/-! DEFINITION. The format CMD32 as raw fields, and the checks that make raw fields a command (R61, R63, R64 30_encoding.md).

A term of `Instr` is well formed by its type: its one operand is exactly a byte. What can be ill formed is a command WORD, so the
checks stand on the three fields of CMD32. -/

namespace Sys2Proof

/-- The three fields of CMD32: OP [7:0], IMM8 [15:8], ZERO [31:16] (R61). -/
structure CmdFields where
  op   : Byte
  imm8 : Byte
  zero : BitVec 16
  deriving DecidableEq, Repr

/-- OP is one of the five opcodes of R63. -/
def CmdFields.opDefined (f : CmdFields) : Bool := f.op.toNat ≤ 4

/-- IMM8 is 0 unless the command is PUSH_INFO (R61, R63). -/
def CmdFields.immOk (f : CmdFields) : Bool := f.op == 2#8 || f.imm8 == 0#8

/-- ZERO is 0 (R61). -/
def CmdFields.zeroOk (f : CmdFields) : Bool := f.zero == 0#16

/-- Raw fields that are a command. -/
def CmdFields.wf (f : CmdFields) : Bool := f.opDefined && f.immOk && f.zeroOk

end Sys2Proof
end

