-- ==== Sys2Proof/Decode.lean ====
section
/-! DEFINITION. Decoding a command word, total on all 32-bit words, and the encoder (R61 to R64 30_encoding.md). -/

namespace Sys2Proof

/-- Why a word is no command (R64). Each carries w[7:0], the INDEX of the IllegalCommand it raises. -/
inductive DecodeError where
  /-- OP is in 0x05..0xFF. -/
  | undefinedOpcode (op : Byte)
  /-- IMM8 is not 0 and the command is not PUSH_INFO. -/
  | immNotZero (op : Byte)
  /-- ZERO is not 0. -/
  | zeroNotZero (op : Byte)
  deriving DecidableEq, Repr

/-- The fields of a word (R61). -/
def splitFields (w : Word) : CmdFields :=
  ⟨w.extractLsb' 0 8, w.extractLsb' 8 8, w.extractLsb' 16 16⟩

/-- The word of three fields (R61). -/
def joinFields (f : CmdFields) : Word :=
  f.op.setWidth 32 ||| (f.imm8.setWidth 32 <<< 8) ||| (f.zero.setWidth 32 <<< 16)

/-- The command an opcode names, given the operand byte (R63); used on well-formed fields only. -/
def selectInstr (op imm8 : Byte) : Instr :=
  match op.toNat with
  | 0 => .nop
  | 1 => .clear
  | 2 => .pushInfo imm8
  | 3 => .start
  | _ => .softReset

/-- DECODE (R63, R64): every word is either exactly one command or illegal. -/
def decode (w : Word) : Except DecodeError Instr :=
  let f := splitFields w
  if !f.opDefined then .error (.undefinedOpcode f.op)
  else if !f.immOk then .error (.immNotZero f.op)
  else if !f.zeroOk then .error (.zeroNotZero f.op)
  else .ok (selectInstr f.op f.imm8)

/-- The fields of each command's word, from the patterns of R63. -/
def instrFields : Instr → CmdFields
  | .nop        => ⟨0x00#8, 0#8, 0#16⟩
  | .clear      => ⟨0x01#8, 0#8, 0#16⟩
  | .pushInfo b => ⟨0x02#8, b, 0#16⟩
  | .start      => ⟨0x03#8, 0#8, 0#16⟩
  | .softReset  => ⟨0x04#8, 0#8, 0#16⟩

/-- ENCODE (R63): the word of a command. -/
def encode (i : Instr) : Word := joinFields (instrFields i)

/-- One row of the opcode map of R63: a word selects the command when `(w & mask) == match`. -/
structure OpcodeRow where
  mnemonic : String
  mask     : Word
  pattern  : Word
  deriving DecidableEq, Repr

/-- The row matches the word (R63). -/
def OpcodeRow.selects (r : OpcodeRow) (w : Word) : Bool := w &&& r.mask == r.pattern

/-- The row of each command in the opcode map (R63, columns mask and match). -/
def opcodeRow : Instr → OpcodeRow
  | .nop        => ⟨"NOP", 0xFFFFFFFF#32, 0x00000000#32⟩
  | .clear      => ⟨"CLEAR", 0xFFFFFFFF#32, 0x00000001#32⟩
  | .pushInfo _ => ⟨"PUSH_INFO", 0xFFFF00FF#32, 0x00000002#32⟩
  | .start      => ⟨"START", 0xFFFFFFFF#32, 0x00000003#32⟩
  | .softReset  => ⟨"SOFT_RESET", 0xFFFFFFFF#32, 0x00000004#32⟩

/-- The opcode map of R63, row by row. -/
def opcodeMap : List OpcodeRow :=
  [opcodeRow .nop, opcodeRow .clear, opcodeRow (.pushInfo 0#8), opcodeRow .start, opcodeRow .softReset]

/-- The command this decoder reads from an instruction whose bits are `w`; a command is one 32-bit word, bits above `nbits` are 0. -/
def decodeTableWord (nbits w : Nat) : Option Instr :=
  match decode (BitVec.ofNat 32 (w % 2 ^ nbits)) with
  | .ok i => some i
  | .error _ => none

end Sys2Proof
end

