-- ==== Sys2Proof/Machine/HostAccess.lean ====
section
/-! DEFINITION. Host reads and writes of the register window (R115, R116 46_commands.md), the core's loads and stores. -/

namespace Sys2Proof.Machine

/-- What a register reads (R115); no read has a side effect. -/
def State.readReg (s : State) : Reg → Word
  | .id => 0x35325841#32
  | .version => 0x00000001#32
  | .ctrl => s.ctrl.setWidth 32
  | .status => s.statusWord
  | .cmd => 0#32
  | .errInfo => s.errInfoWord
  | .cfg0 => s.regs.cfg0.setWidth 32
  | .cfg1 => (s.regs.flush.setWidth 32 <<< 16) ||| (s.regs.tpp.setWidth 32 <<< 8) ||| s.regs.l.setWidth 32
  | .fmK => s.regs.fmK.setWidth 32
  | .infoMax => s.regs.infoMax.setWidth 32
  | .infoLen => s.infoLen.setWidth 32
  | .fcs => s.fcs.setWidth 32
  | .frameLen => s.frameLen.setWidth 32
  | .bitCount => s.bitCount
  | .outCount => s.outPos
  | .coefPtr => s.regs.coefPtr.setWidth 32
  | .coefData => (s.coefWord s.regs.coefPtr.toNat).setWidth 32
  | .addrLo e => s.regs.addr[e].lo
  | .addrHi e => s.regs.addr[e].hi.setWidth 32

/-- HOST READ (R115): the word at a byte offset; an unmapped offset reads 0 (R43 20_memory.md). -/
def State.hostRead (s : State) (addr : Byte) : Word :=
  match regAt addr with
  | some r => s.readReg r
  | none => 0#32

/-- A write of a locked-class register's stored bits (R116); COEF_DATA is written by `State.pushCoef`. -/
def Regs.store (g : Regs) (v : Word) : Reg → Regs
  | .cfg0 => { g with cfg0 := v.setWidth 24 }
  | .cfg1 => { g with l := v.extractLsb' 0 7, tpp := v.extractLsb' 8 8, flush := v.extractLsb' 16 16 }
  | .fmK => { g with fmK := v.setWidth 16 }
  | .infoMax => { g with infoMax := v.setWidth 9 }
  | .coefPtr => { g with coefPtr := v.setWidth 12 }
  | .addrLo e => { g with addr := g.addr.set e { g.addr[e] with lo := v } }
  | .addrHi e => { g with addr := g.addr.set e { g.addr[e] with hi := v.setWidth 24 } }
  | _ => g

/-- A write to a register other than CMD (R116): the lock of R14 10_state.md first, then the register's own effect. -/
def State.writeReg (s : State) (r : Reg) (v : Word) : State :=
  if r.lockedClass then
    if s.locked then s.setWign
    else if r = .coefData then s.pushCoef (v.setWidth 16)
    else s.setRegs (s.regs.store v r)
  else match r with
    | .ctrl => s.setCtrl (v.setWidth 2)
    | .status => s.ackStatus v
    | _ => s

/-- HOST WRITE at an offset other than CMD's (R116); an unmapped offset changes nothing (R43 20_memory.md). -/
def State.hostWrite (s : State) (addr : Byte) (v : Word) : State :=
  match regAt addr with
  | some r => s.writeReg r v
  | none => s

end Sys2Proof.Machine
end

