-- ==== Sys2Proof/Machine/Events.lean ====
section
/-! DEFINITION. The events that are no command: host reads, host writes to registers other than CMD, the sink's events and the hardware reset
(R114 46_commands.md). -/

namespace Sys2Proof.Machine

/-- The command word of an event: a HostWrite that reaches CMD (R20 10_state.md, R116 46_commands.md). -/
def commandWord : Event → Option Word
  | .hostWrite addr v => if regAt addr = some .cmd then some v else none
  | _ => none

/-- One event that is no command (R114 46_commands.md). -/
def applyEvent (e : Event) (s : State) : Host.Outcome State Fault Refusal :=
  match e with
  | .hostRead addr => .next (s.giveHost (s.hostRead addr))
  | .hostWrite addr v => .next (s.hostWrite addr v)
  | .sinkReady => Sys2Proof.Machine.sinkReady s
  | .sinkError => .next (Sys2Proof.Machine.sinkError s)
  | .hwReset => .next s.resetCore

/-- The event that writes a word to CMD. -/
def commandEvent (w : Word) : Event := .hostWrite Reg.cmd.offset w

end Sys2Proof.Machine
end

