-- ==== Sys2Proof/Machine/Step.lean ====
section
/-! DEFINITION. One step: the next event of the inbox happens (R114 46_commands.md); a command word is decoded and dispatched (R117). -/

namespace Sys2Proof.Machine

/-- ONE STEP. With no event in store nothing changes: the core never changes state on its own (R114). DEDUCED, log 1, safe. -/
def step (s : State) : Host.Outcome State Fault Refusal :=
  match s.inbox with
  | [] => .next s
  | e :: rest =>
    match commandWord e with
    | some w =>
      match decode w with
      | .ok i => exec i (s.setInbox rest)
      | .error _ => .next (illegalCommand w (s.setInbox rest))
    | none => applyEvent e (s.setInbox rest)

/-- The state in which the next event is the host's write of this command word to CMD. DEDUCED, log 2, safe. -/
def State.withFetchWord (s : State) (nbits w : Nat) : State :=
  s.setInbox (commandEvent (BitVec.ofNat 32 (w % 2 ^ nbits)) :: s.inbox)

end Sys2Proof.Machine
end

