-- ==== Sys2Proof/Machine/Assembler.lean ====
section
/-! DEFINITION. The host assembler syntax as events (R66, R67 30_encoding.md). -/

namespace Sys2Proof.Machine.Asm

/-- `WR REG, value` (R66). -/
def wr (r : Reg) (v : Word) : Event := .hostWrite r.offset v

/-- `RD REG -> name` (R66): the value read is the newest of `hostGot`. -/
def rd (r : Reg) : Event := .hostRead r.offset

/-- A command by its mnemonic (R66): a write of its word to CMD. -/
def cmd (i : Instr) : Event := wr .cmd (encode i)

/-- `SINK n` (R66): the sink accepts n output bytes. -/
def sink (n : Nat) : List Event := List.replicate n .sinkReady

/-- `SINK *` (R66): the sink accepts every remaining output byte. -/
def sinkAll (s : State) : List Event := sink (s.outseq.length - s.outPos.toNat)

/-- `PUSHSTR "text"` (R67), the text as its ASCII bytes. -/
def pushStr (text : List Byte) : List Event := text.map fun c => cmd (.pushInfo c)

/-- The callsign padded with spaces to six characters (R67). -/
def padCall (call : List Byte) : List Byte := (call ++ List.replicate 6 0x20#8).take 6

/-- `SETADDR e, "CALL", s` (R67). -/
def setAddr (e : Fin 10) (call : List Byte) (ssid : Byte) : List Event :=
  let c (k : Nat) : Word := ((padCall call).getD k 0x20#8).setWidth 32
  [wr (.addrLo e) (c 0 ||| (c 1 <<< 8) ||| (c 2 <<< 16) ||| (c 3 <<< 24)),
   wr (.addrHi e) (c 4 ||| (c 5 <<< 8) ||| (ssid.setWidth 32 <<< 16))]

/-- `LOADCOEF t0, ..., tn` (R67). -/
def loadCoef (taps : List Int) : List Event :=
  wr .coefPtr 0#32 :: taps.map fun t => wr .coefData ((BitVec.ofInt 16 t).setWidth 32)

/-- One poll of `WAITIDLE` (R67). -/
def waitIdlePoll : Event := rd .status

/-- The end of `WAITIDLE` (R67): the STATUS word just read has bit 0 clear. -/
def waitIdleDone (s : State) : Bool :=
  match s.hostGot with
  | [] => false
  | w :: _ => !w.getLsbD 0

end Sys2Proof.Machine.Asm
end

