-- ==== Sys2Proof/Safety.lean ====
section
/-! DEFINITION. What counts as a safe state of the core, and the reference forms the claims compare the stages with. -/

namespace Sys2Proof.Machine

/-- The flag bits still to send when `n` bits of a whole number of flags are left (R77 41_serializer_nrzi.md). -/
def flagTail : Nat → List Bool
  | 0 => []
  | n + 1 => flagBitAt (n + 1) :: flagTail n

/-- The line bits the pipeline registers still stand for (R79 41_serializer_nrzi.md). -/
def Pipe.restLine (frame : List Bool) (p : Pipe) : List Bool :=
  flagTail p.preLeft ++ (if p.due then [false] else []) ++ stuff p.ones.toNat (frame.drop p.bitPos) ++ flagTail p.postLeft

/-- The audio samples the pipeline registers still stand for (R85 42_afsk_dds.md). -/
def Pipe.restAudio (pol : Bool) (frame : List Bool) (p : Pipe) : List Half :=
  tone (toneInc pol p.lvl) p.symLeft p.phi
    ++ afsk pol (tonePhase (toneInc pol p.lvl) p.symLeft p.phi) (nrzi p.lvl (p.restLine frame))

/-- The interpolator inputs the pipeline registers still stand for (R99 44_fir_interpolator.md). -/
def Pipe.restInput (r : Regs) (frame : List Bool) (p : Pipe) : List Cplx :=
  fm r.fmK p.psi (p.restAudio r.pol frame) ++ List.replicate p.flushLeft.toNat ⟨0#16, 0#16⟩

/-- The output bytes the pipeline registers still stand for, after those waiting at the port (R110 45_sample_sink.md). -/
def State.restBytes (s : State) (p : Pipe) : List Byte :=
  match s.regs.format with
  | some .pcmF32 => (p.restAudio s.regs.pol s.frameBits).flatMap fun x => f32 x.toInt
  | some fmt =>
    (fir s.tap s.regs.l.toNat s.regs.tpp.toNat p.delay (p.restInput s.regs s.frameBits)).flatMap (iqBytes fmt)
  | none => []

/-- The memories have their canonical form (log 6). -/
def State.MemOk (s : State) : Prop :=
  Memory.wf Config.coefDepth s.coef = true ∧ Memory.wf Config.infoCap s.info = true ∧ Memory.wf Config.frameMax s.frame = true

/-- The registers hold values in the ranges the spec gives them: INFO_LEN (R26), the ones counter and the DDS phase (R38 10_state.md), and a
recorded error has a kind (R129 60_exceptions.md). -/
def State.RegOk (s : State) : Prop :=
  s.infoLen.toNat ≤ Config.infoCap ∧ s.pipe.ones.toNat < 5 ∧ s.pipe.phi.toNat < Config.ddsMod
    ∧ (s.err = true → s.errKind ≠ .none)

/-- What holds during a transmission: a legal configuration (R130 60_exceptions.md), DONE = 0 (R121, R125 46_commands.md), BIT_COUNT (R29 10_state.md), OUTPOS inside OUTSEQ
(R124 46_commands.md), TPP delay slots (R98 44_fir_interpolator.md), the bytes still to come are OUTSEQ from OUTPOS on, and the sink has those before (R124 46_commands.md, R56
20_memory.md). -/
structure State.RunOk (s : State) : Prop where
  config    : s.regs.configOk = true
  notDone   : s.done = false
  bitCount  : s.bitCount.toNat = s.line.length
  inside    : s.outPos.toNat < s.outseq.length
  delay     : s.pipe.delay.length = s.regs.tpp.toNat
  toCome    : s.pipe.buf ++ s.restBytes s.pipe = s.outseq.drop s.outPos.toNat
  delivered : (s.sinkGot.take s.outPos.toNat).reverse = s.outseq.take s.outPos.toNat

/-- THE INVARIANT of the core. -/
structure State.Inv (s : State) : Prop where
  mem : s.MemOk
  reg : s.RegOk
  run : s.mode = .run → s.RunOk

/-- A reset event: HwReset, or a host write of SOFT_RESET's word to CMD (R144, R145 70_reset_and_hazards.md). -/
def Event.isReset (e : Event) : Bool :=
  match e with
  | .hwReset => true
  | e => commandWord e == some (encode .softReset)

/-- UNSTUFF (R81 c, 41_serializer_nrzi.md): delete the bit after every run of five 1s; `c` counts the 1s just before. -/
def unstuff : Nat → List Bool → List Bool
  | _, [] => []
  | c, b :: bs =>
    if c = 5 then unstuff 0 bs
    else if b then true :: unstuff (c + 1) bs
    else false :: unstuff 0 bs

/-- The start of a flag in LINE, for a preamble of `npre` flags and `n` bits of DATA (R79, R81 b). -/
def flagStart (npre n npost i : Nat) : Prop :=
  (∃ k, k < npre ∧ i = 8 * k) ∨ (∃ k, k < npost ∧ i = 8 * npre + n + 8 * k)

/-- Σ_{i < n} f i, exact. -/
def sumTo (f : Nat → Int) : Nat → Int
  | 0 => 0
  | n + 1 => sumTo f n + f n

/-- x_up (R103 44_fir_interpolator.md): the zero-stuffed input, 0 before index 0 and at every index L does not divide. -/
def upsampled (l : Nat) (xs : List Int) (m : Int) : Int :=
  if 0 ≤ m ∧ m % l = 0 then xs.getD (m / l).toNat 0 else 0

/-- yd[m] (R103): the direct-form filter of the zero-stuffed input. -/
def directForm (h : Nat → Int) (l tpp : Nat) (xs : List Int) (m : Nat) : Int :=
  sumTo (fun t => h t * upsampled l xs ((m : Int) - t)) (l * tpp)

end Sys2Proof.Machine
end

