-- ==== Sys2Proof/Certificates/Slice0/Obligations.lean ====
section
/-! DEFINITION. The statements for the provers, from the numbered rules of spec/. -/

open Sys2Proof Sys2Proof.Machine

/-! ## Encoding and dispatch -/

/-- A step whose next event writes a decodable word to CMD is exec of the decoded command, with the event taken from the inbox (R116, R117
46_commands.md, R20 10_state.md); placing a command's word as the next event runs exactly that command (log 1, log 2). -/
def Obligations.StepRunsDecodedCommand : Prop :=
  (∀ (s : State) (addr : Byte) (w : Word) (rest : List Event) (i : Instr),
      s.inbox = .hostWrite addr w :: rest → addr.toNat / 4 * 4 = 0x10 → decode w = .ok i → step s = exec i (s.setInbox rest))
    ∧ ∀ (s : State) (i : Instr), step (s.withFetchWord 32 (encode i).toNat) = exec i s

/-- R61 to R64 30_encoding.md: decoding and encoding agree in both directions, for every word and every command. -/
def Obligations.DecodeInvertsEncode : Prop :=
  ∀ (w : Word) (i : Instr), decode w = .ok i ↔ w = encode i

/-- R63 30_encoding.md: the opcode map, row by row; a word selects a command exactly when the row's mask and match say so; at most one row matches. -/
def Obligations.OpcodeMapSelectsCommand : Prop :=
  opcodeMap =
      [⟨"NOP", 0xFFFFFFFF#32, 0x00000000#32⟩, ⟨"CLEAR", 0xFFFFFFFF#32, 0x00000001#32⟩,
       ⟨"PUSH_INFO", 0xFFFF00FF#32, 0x00000002#32⟩, ⟨"START", 0xFFFFFFFF#32, 0x00000003#32⟩,
       ⟨"SOFT_RESET", 0xFFFFFFFF#32, 0x00000004#32⟩]
    ∧ (∀ (w : Word) (r : OpcodeRow), r ∈ opcodeMap → w &&& r.mask = r.pattern → ∃ i, decode w = .ok i ∧ opcodeRow i = r)
    ∧ (∀ (w : Word) (i : Instr), decode w = .ok i → opcodeRow i ∈ opcodeMap ∧ w &&& (opcodeRow i).mask = (opcodeRow i).pattern)
    ∧ ∀ (w : Word) (r r' : OpcodeRow), r ∈ opcodeMap → r' ∈ opcodeMap → w &&& r.mask = r.pattern → w &&& r'.mask = r'.pattern → r = r'

/-- R132 60_exceptions.md: a CMD write whose word matches no row raises IllegalCommand(w[7:0]) and does nothing else, in every mode. -/
def Obligations.IllegalWordRaises : Prop :=
  ∀ (s : State) (addr : Byte) (w : Word) (rest : List Event),
    s.inbox = .hostWrite addr w :: rest → addr.toNat / 4 * 4 = 0x10 → (∀ r, r ∈ opcodeMap → w &&& r.mask ≠ r.pattern) →
    step s = .next ((s.setInbox rest).raise .illegalCommand (w.extractLsb' 0 8))

/-- V-CMD of 95_test_vectors.md: words written out from the encodings of R63, and illegal words. -/
def Obligations.SampleWordsDecode : Prop :=
  decode 0x00000000#32 = .ok .nop ∧ decode 0x00000001#32 = .ok .clear ∧ decode 0x00004802#32 = .ok (.pushInfo 0x48#8)
    ∧ decode 0x0000FF02#32 = .ok (.pushInfo 0xFF#8) ∧ decode 0x00000003#32 = .ok .start ∧ decode 0x00000004#32 = .ok .softReset
    ∧ decode 0x00000100#32 = .error (.immNotZero 0x00#8) ∧ decode 0x00010000#32 = .error (.zeroNotZero 0x00#8)
    ∧ decode 0x0001FF02#32 = .error (.zeroNotZero 0x02#8) ∧ decode 0x00000103#32 = .error (.immNotZero 0x03#8)
    ∧ decode 0x00000005#32 = .error (.undefinedOpcode 0x05#8) ∧ decode 0x000000FF#32 = .error (.undefinedOpcode 0xFF#8)

/-! ## Errors, status and interrupt -/

/-- R129 60_exceptions.md: RECORDING, with all it leaves unchanged, and the interrupt level after it. -/
def Obligations.RaiseRecordsFirstError : Prop :=
  ∀ (s : State) (k : ErrorKind) (index : Byte),
    (s.err = false → s.raise k index = { s with errKind := k, errIndex := index, err := true }
        ∧ (s.raise k index).readReg .errInfo = BitVec.ofNat 32 (index.toNat * 256 + k.code))
      ∧ (s.err = true → s.raise k index = { s with ovf := true })
      ∧ (s.raise k index).irq = ((s.done && s.ctrl.getLsbD 0) || s.ctrl.getLsbD 1)

/-- R128 60_exceptions.md: the code each error kind reads back as in ERRINFO.CODE, and no kind has another. -/
def Obligations.ErrorCodesReadBack : Prop :=
  ∀ s : State, ((s.readReg .errInfo).extractLsb' 0 4).toNat
    = (match s.errKind with
      | .none => 0
      | .invalidCallsign => 1
      | .invalidPath => 2
      | .oversizedInfo => 3
      | .sinkWriteError => 4
      | .internalInvariantFailure => 5
      | .illegalCommand => 6
      | .invalidConfig => 7)
    ∧ (s.readReg .errInfo).extractLsb' 8 8 = s.errIndex ∧ (s.readReg .errInfo).extractLsb' 4 4 = 0#4 ∧ (s.readReg .errInfo).extractLsb' 16 16 = 0#16

/-- R21 10_state.md, R135 60_exceptions.md: no step changes ERRINFO but one that records an error while ERR = 0, and a reset. -/
def Obligations.ErrInfoChangesOnlyWhenRecorded : Prop :=
  ∀ (s t : State), step s = .next t → t.errKind ≠ s.errKind ∨ t.errIndex ≠ s.errIndex →
    (s.err = false ∧ t.err = true) ∨ ∃ e rest, s.inbox = e :: rest ∧ e.isReset = true

/-- R135 60_exceptions.md: a W1C write of STATUS is the only way ERR and OVF become 0, apart from reset. -/
def Obligations.ErrorClearedOnlyByHostOrReset : Prop :=
  ∀ (s t : State), step s = .next t → (s.err = true ∧ t.err = false) ∨ (s.ovf = true ∧ t.ovf = false) →
    ∃ e rest, s.inbox = e :: rest
      ∧ (e.isReset = true
        ∨ ∃ addr v, e = .hostWrite addr v ∧ addr.toNat / 4 * 4 = 0x0C
            ∧ ((s.err = true ∧ t.err = false) → v.getLsbD 2 = true) ∧ ((s.ovf = true ∧ t.ovf = false) → v.getLsbD 3 = true))

/-- R136 60_exceptions.md: irq is the level (DONE and IE_DONE) or (ERR and IE_ERR) in every state, and STATUS.IRQ reads it. -/
def Obligations.IrqFollowsDoneAndErr : Prop :=
  ∀ s : State, s.irq = ((s.done && s.ctrl.getLsbD 0) || (s.err && s.ctrl.getLsbD 1)) ∧ (s.readReg .status).getLsbD 6 = s.irq

/-! ## Register accesses -/

/-- R115 46_commands.md: HostRead at every byte offset, in every mode: what is returned, and no side effect. -/
def Obligations.HostReadReturnsMap : Prop :=
  ∀ (s : State) (addr : Byte) (rest : List Event), s.inbox = .hostRead addr :: rest →
    let o := addr.toNat / 4 * 4
    let bit (b : Bool) (k : Nat) : Word := if b then 1#32 <<< k else 0#32
    step s = .next ((s.setInbox rest).giveHost
      (if o = 0x00 then 0x35325841#32
       else if o = 0x04 then 0x00000001#32
       else if o = 0x08 then s.ctrl.setWidth 32
       else if o = 0x0C then
         bit s.irq 6 ||| bit (s.mode == .fault) 5 ||| bit s.wign 4 ||| bit s.ovf 3 ||| bit s.err 2 ||| bit s.done 1 ||| bit (s.mode == .run) 0
       else if o = 0x10 then 0#32
       else if o = 0x14 then (s.errIndex.setWidth 32 <<< 8) ||| BitVec.ofNat 32 s.errKind.code
       else if o = 0x18 then s.regs.cfg0.setWidth 32
       else if o = 0x1C then (s.regs.flush.setWidth 32 <<< 16) ||| (s.regs.tpp.setWidth 32 <<< 8) ||| s.regs.l.setWidth 32
       else if o = 0x20 then s.regs.fmK.setWidth 32
       else if o = 0x24 then s.regs.infoMax.setWidth 32
       else if o = 0x28 then s.infoLen.setWidth 32
       else if o = 0x2C then s.fcs.setWidth 32
       else if o = 0x30 then s.frameLen.setWidth 32
       else if o = 0x34 then s.bitCount
       else if o = 0x38 then s.outPos
       else if o = 0x3C then s.regs.coefPtr.setWidth 32
       else if o = 0x40 then (s.coefWord s.regs.coefPtr.toNat).setWidth 32
       else if 0x80 ≤ o ∧ o ≤ 0xCC then
         (if o % 8 = 0 then (s.regs.entry ((o - 0x80) / 8)).lo else (s.regs.entry ((o - 0x80) / 8)).hi.setWidth 32)
       else 0#32))

/-- R116 46_commands.md: HostWrite at every byte offset but CMD's, in every mode: the register's stored bits, the lock, the W1C bits, and nothing
else. -/
def Obligations.HostWriteStoresStoredBits : Prop :=
  ∀ (s : State) (addr : Byte) (v : Word) (rest : List Event),
    s.inbox = .hostWrite addr v :: rest → addr.toNat / 4 * 4 ≠ 0x10 →
    let o := addr.toNat / 4 * 4
    let u := s.setInbox rest
    step s = .next
      (if o = 0x08 then { u with ctrl := v.extractLsb' 0 2 }
       else if o = 0x0C then
         { u with
           done := if v.getLsbD 1 then false else u.done
           err := if v.getLsbD 2 then false else u.err
           ovf := if v.getLsbD 3 then false else u.ovf
           wign := if v.getLsbD 4 then false else u.wign }
       else if o = 0x18 ∨ o = 0x1C ∨ o = 0x20 ∨ o = 0x24 ∨ o = 0x3C ∨ o = 0x40 ∨ (0x80 ≤ o ∧ o ≤ 0xCC) then
         if u.mode ≠ .idle then { u with wign := true }
         else if o = 0x18 then { u with regs := { u.regs with cfg0 := v.extractLsb' 0 24 } }
         else if o = 0x1C then
           { u with regs := { u.regs with l := v.extractLsb' 0 7, tpp := v.extractLsb' 8 8, flush := v.extractLsb' 16 16 } }
         else if o = 0x20 then { u with regs := { u.regs with fmK := v.extractLsb' 0 16 } }
         else if o = 0x24 then { u with regs := { u.regs with infoMax := v.extractLsb' 0 9 } }
         else if o = 0x3C then { u with regs := { u.regs with coefPtr := v.extractLsb' 0 12 } }
         else if o = 0x40 then
           { u with
             coef := Memory.write u.regs.coefPtr.toNat (v.extractLsb' 0 16) u.coef
             regs := { u.regs with coefPtr := BitVec.ofNat 12 ((u.regs.coefPtr.toNat + 1) % 4096) } }
         else if o % 8 = 0 then
           { u with regs := { u.regs with
               addr := u.regs.addr.setIfInBounds ((o - 0x80) / 8) { u.regs.entry ((o - 0x80) / 8) with lo := v } } }
         else
           { u with regs := { u.regs with
               addr := u.regs.addr.setIfInBounds ((o - 0x80) / 8) { u.regs.entry ((o - 0x80) / 8) with hi := v.extractLsb' 0 24 } } }
       else u)

/-- R13, R22 to R25, R31, R33 10_state.md: in IDLE a written read-write register reads back the written bits of its fields, and every other
register but COEF_DATA, which shows COEF at COEF_PTR, reads as before. -/
def Obligations.WrittenRegisterReadsBack : Prop :=
  ∀ (s : State) (r : Reg) (v : Word), s.mode = .idle →
    (r ∈ [Reg.cfg0, .cfg1, .fmK, .infoMax, .coefPtr] ∨ (∃ e, r = .addrLo e) ∨ ∃ e, r = .addrHi e) →
    let mask : Word :=
      match r with
      | .cfg0 => 0x00FFFFFF#32
      | .cfg1 => 0xFFFFFF7F#32
      | .fmK => 0x0000FFFF#32
      | .infoMax => 0x000001FF#32
      | .coefPtr => 0x00000FFF#32
      | .addrHi _ => 0x00FFFFFF#32
      | _ => 0xFFFFFFFF#32
    (s.hostWrite r.offset v).hostRead r.offset = v &&& mask
      ∧ ∀ r' : Reg, r' ≠ r → r' ≠ .coefData → (s.hostWrite r.offset v).hostRead r'.offset = s.hostRead r'.offset

/-- R32 10_state.md: COEF_DATA: a write in IDLE stores the low 16 bits at COEF_PTR and advances it modulo 4096, a write while locked only sets WIGN, a
read in any mode returns the word and changes nothing. -/
def Obligations.CoefDataWritesAndAdvances : Prop :=
  ∀ (s : State) (v : Word) (rest : List Event),
    (s.inbox = .hostWrite 0x40#8 v :: rest → s.mode = .idle →
      ∃ t, step s = .next t
        ∧ t.coefWord s.regs.coefPtr.toNat = v.extractLsb' 0 16
        ∧ (∀ i, i ≠ s.regs.coefPtr.toNat → t.coefWord i = s.coefWord i)
        ∧ t.regs.coefPtr.toNat = (s.regs.coefPtr.toNat + 1) % 4096
        ∧ t = { s with inbox := rest, coef := t.coef, regs := { s.regs with coefPtr := t.regs.coefPtr } })
      ∧ (s.inbox = .hostWrite 0x40#8 v :: rest → s.mode ≠ .idle → step s = .next { s with inbox := rest, wign := true })
      ∧ (s.inbox = .hostRead 0x40#8 :: rest →
          step s = .next { s with inbox := rest, hostGot := (s.coefWord s.regs.coefPtr.toNat).setWidth 32 :: s.hostGot })

/-- R44 20_memory.md: the host's address CORE_BASE + addr reaches offset addr, whatever CORE_BASE is (log 11). That host
addresses have 32 bits and wrap is the model's choice (log 16). -/
def Obligations.WindowAddressReachesOffset : Prop :=
  ∀ addr : Byte, windowOffset (Config.coreBase + addr.setWidth 32) = some addr

/-! ## Commands and reset -/

/-- R118 46_commands.md: NOP is the word 0 and changes nothing, in every mode. -/
def Obligations.NopChangesNothing : Prop :=
  encode .nop = 0x00000000#32 ∧ ∀ s : State, exec .nop s = .next s

/-- R119 46_commands.md: in IDLE, CLEAR zeroes INFO_LEN and touches nothing else; the bytes of INFO stay. -/
def Obligations.ClearZeroesInfoLen : Prop :=
  ∀ s : State, s.mode = .idle → exec .clear s = .next { s with infoLen := 0#9 }

/-- R120 46_commands.md: in IDLE, PUSH_INFO appends its byte below min(INFO_MAX, 256), and otherwise only raises OversizedInfo. -/
def Obligations.PushInfoAppendsOrRejects : Prop :=
  ∀ (s : State) (b : Byte), s.mode = .idle →
    (s.infoLen.toNat < min s.regs.infoMax.toNat 256 →
      ∃ t, exec (.pushInfo b) s = .next t
        ∧ t.infoByte s.infoLen.toNat = b
        ∧ (∀ i, i ≠ s.infoLen.toNat → t.infoByte i = s.infoByte i)
        ∧ t.infoLen.toNat = s.infoLen.toNat + 1
        ∧ t = { s with info := t.info, infoLen := t.infoLen })
      ∧ (min s.regs.infoMax.toNat 256 ≤ s.infoLen.toNat → exec (.pushInfo b) s = .next (s.raise .oversizedInfo 0xFF#8))

/-- R117 46_commands.md: CLEAR, PUSH_INFO and START while mode ≠ IDLE set only WIGN. -/
def Obligations.LockedCommandsOnlySetWign : Prop :=
  ∀ (s : State) (b : Byte), s.mode ≠ .idle →
    exec .clear s = .next { s with wign := true } ∧ exec (.pushInfo b) s = .next { s with wign := true }
      ∧ exec .start s = .next { s with wign := true }

/-- R130 60_exceptions.md: START's checks in their order, and what each raises; with all of them passed none is raised. -/
def Obligations.StartChecksInOrder : Prop :=
  ∀ s : State, s.mode = .idle →
    let bad := s.regs.npre = 0 ∨ s.regs.npost = 0 ∨ s.regs.fmt = 3#2 ∨ s.regs.l.toNat = 0 ∨ 64 < s.regs.l.toNat ∨ s.regs.tpp.toNat = 0
      ∨ 4096 < s.regs.l.toNat * s.regs.tpp.toNat ∨ 256 < s.regs.infoMax.toNat
    let ok (e : Nat) : Prop := (s.regs.entry e).callOk = true ∧ (s.regs.entry e).ssidOk = true
    (bad → exec .start s = .next (s.raise .invalidConfig 0xFF#8))
      ∧ (¬ bad → ¬ ok 0 → exec .start s = .next (s.raise .invalidCallsign 0#8))
      ∧ (¬ bad → ok 0 → ¬ ok 1 → exec .start s = .next (s.raise .invalidCallsign 1#8))
      ∧ (¬ bad → ok 0 → ok 1 → 8 < s.regs.ndigi → exec .start s = .next (s.raise .invalidPath 0xFF#8))
      ∧ (¬ bad → ok 0 → ok 1 → s.regs.ndigi ≤ 8 → ∀ e, 2 ≤ e → e ≤ 1 + s.regs.ndigi → (∀ j, 2 ≤ j → j < e → ok j) → ¬ ok e →
          exec .start s = .next (s.raise .invalidPath (BitVec.ofNat 8 e)))
      ∧ (¬ bad → ok 0 → ok 1 → s.regs.ndigi ≤ 8 → (∀ j, 2 ≤ j → j ≤ 1 + s.regs.ndigi → ok j) → s.regs.infoMax.toNat < s.infoLen.toNat →
          exec .start s = .next (s.raise .oversizedInfo 0xFF#8))
      ∧ (¬ bad → ok 0 → ok 1 → s.regs.ndigi ≤ 8 → (∀ j, 2 ≤ j → j ≤ 1 + s.regs.ndigi → ok j) → s.infoLen.toNat ≤ s.regs.infoMax.toNat →
          s.check = none)

/-- R121 46_commands.md: an accepted START (no check of R130 fails): every register it writes, the frame of R73 in FRAME, the start values of the
pipeline, mode RUN with OUTSEQ[0] at the port, and its frame: nothing else changes. -/
def Obligations.StartBuildsAndRuns : Prop :=
  ∀ s : State, s.mode = .idle → s.check = none →
    let n := 2 + s.regs.ndigi
    let body := ((List.range n).flatMap fun k => addrBytes (s.regs.entry k) (k + 1 == n)) ++ [0x03#8, 0xF0#8] ++ s.infoBytes
    let fcs := crcReg body ^^^ 0xFFFF#16
    let frame := body ++ [fcs.extractLsb' 0 8, fcs.extractLsb' 8 8]
    ∃ t, exec .start s = .next t
      ∧ t.mode = .run ∧ t.done = false
      ∧ t.frameLen.toNat = 7 * n + 2 + s.infoLen.toNat + 2 ∧ t.frameBytes = frame
      ∧ (∀ i, frame.length ≤ i → t.frameByte i = s.frameByte i)
      ∧ t.fcs = fcs
      ∧ t.bitCount.toNat = (lineBits s.regs.npre s.regs.npost frame).length
      ∧ t.outPos = 0#32 ∧ t.outValid = true ∧ t.outseq[0]? = some t.outData
      ∧ t.pipe.ones = 0#3 ∧ t.pipe.lvl = s.regs.nrziInit ∧ t.pipe.phi = 0#8 ∧ t.pipe.psi = 0#32
      ∧ t.pipe.delay = List.replicate s.regs.tpp.toNat ⟨0#16, 0#16⟩ ∧ t.pipe.flushLeft = s.regs.flush
      ∧ t = { s with
          mode := .run, done := false, frame := t.frame, frameLen := t.frameLen, fcs := t.fcs, bitCount := t.bitCount
          outPos := 0#32, pipe := t.pipe }

/-- R145, R146, R147 70_reset_and_hazards.md: SOFT_RESET and HwReset answer the same state in every mode, with every reset value of R146, COEF and INFO
kept. Nothing is said of the pipeline registers and of FRAME, which R146 leaves unspecified (log 7). That the environment's records stay is the model's
reading (log 13). -/
def Obligations.ResetsGiveResetValues : Prop :=
  ∀ s : State, ∃ t,
    exec .softReset s = .next t ∧ (∀ rest, s.inbox = .hwReset :: rest → step s = .next { t with inbox := rest })
      ∧ t.mode = .idle ∧ t.readReg .id = 0x35325841#32 ∧ t.readReg .version = 0x00000001#32 ∧ t.readReg .ctrl = 0#32
      ∧ t.readReg .status = 0#32 ∧ t.readReg .errInfo = 0#32 ∧ t.readReg .cfg0 = 0x00010104#32 ∧ t.readReg .cfg1 = 0x00002032#32
      ∧ t.readReg .fmK = 0x00003555#32 ∧ t.readReg .infoMax = 0x00000100#32 ∧ t.readReg .infoLen = 0#32 ∧ t.readReg .fcs = 0#32
      ∧ t.readReg .frameLen = 0#32 ∧ t.readReg .bitCount = 0#32 ∧ t.readReg .outCount = 0#32 ∧ t.readReg .coefPtr = 0#32
      ∧ (∀ e : Fin 10, t.readReg (.addrLo e) = (if e.val = 0 then 0x53525041#32 else 0x20202020#32) ∧ t.readReg (.addrHi e) = 0x00002020#32)
      ∧ t.irq = false ∧ t.outValid = false ∧ t.outData = 0#8
      ∧ (∀ i, t.coefWord i = s.coefWord i) ∧ (∀ i, t.infoByte i = s.infoByte i)
      ∧ t.inbox = s.inbox ∧ t.hostGot = s.hostGot ∧ t.sinkGot = s.sinkGot ∧ t.draw = s.draw

/-! ## Frame builder -/

/-- R69 40_frame_builder.md: a callsign is legal exactly when 1 to 6 leading characters are '0'..'9' or 'A'..'Z' and the rest are spaces. -/
def Obligations.CallsignCheckMeaning : Prop :=
  ∀ e : AddrEntry,
    let ch (i : Nat) : Byte := if i < 4 then e.lo.extractLsb' (8 * i) 8 else e.hi.extractLsb' (8 * (i - 4)) 8
    let legal (c : Byte) : Prop := (0x30 ≤ c.toNat ∧ c.toNat ≤ 0x39) ∨ (0x41 ≤ c.toNat ∧ c.toNat ≤ 0x5A)
    e.callOk = true ↔ ∃ n, 1 ≤ n ∧ n ≤ 6 ∧ (∀ i, i < n → legal (ch i)) ∧ ∀ i, n ≤ i → i < 6 → ch i = 0x20#8

/-- R71 40_frame_builder.md: the seven bytes of a valid address, bit by bit. -/
def Obligations.AddressBytesLayout : Prop :=
  ∀ (e : AddrEntry) (last : Bool), e.ssidOk = true →
    (addrBytes e last).length = 7
      ∧ (∀ i, i < 6 →
          ((addrBytes e last).getD i 0#8).toNat
            = (if i < 4 then (e.lo.extractLsb' (8 * i) 8).toNat else (e.hi.extractLsb' (8 * (i - 4)) 8).toNat) * 2 % 256)
      ∧ let b := (addrBytes e last).getD 6 0#8
        b.getLsbD 7 = false ∧ b.getLsbD 6 = true ∧ b.getLsbD 5 = true ∧ b.extractLsb' 1 4 = e.hi.extractLsb' 16 4 ∧ b.getLsbD 0 = last

/-- R72 40_frame_builder.md: in the address field of a frame, the last-address bit is set on exactly one address, entry 1 + NDIGI; every other byte has low
bit 0. -/
def Obligations.LastBitOnExactlyOneAddress : Prop :=
  ∀ (s : State) (k i : Nat), k < 2 + s.regs.ndigi → i < 7 →
    (s.buildFrame.getD (7 * k + i) 0#8).getLsbD 0 = decide (i = 6 ∧ k = 1 + s.regs.ndigi)

/-- R76 40_frame_builder.md: the CRC register over any body and its FCS bytes has the constant value 0xF0B8, so over every frame built. -/
def Obligations.FcsResidueIsConstant : Prop :=
  (∀ body : List Byte, crcReg (withFcs body) = 0xF0B8#16) ∧ ∀ s : State, crcReg s.buildFrame = 0xF0B8#16

/-- R74, R75 40_frame_builder.md, L1-1 of 95_test_vectors.md: the check value of "123456789". -/
def Obligations.CrcCheckValue : Prop :=
  let bytes : List Byte := [0x31#8, 0x32#8, 0x33#8, 0x34#8, 0x35#8, 0x36#8, 0x37#8, 0x38#8, 0x39#8]
  crcReg bytes = 0x6F91#16 ∧ fcs16 bytes = 0x906E#16 ∧ crcReg [] = 0xFFFF#16

/-! ## Serializer and NRZI -/

/-- R81 (a) 41_serializer_nrzi.md: DATA has no run of six consecutive 1s, for every frame. -/
def Obligations.StuffedDataHasNoSixOnes : Prop :=
  ∀ frame : List Byte, ¬ List.replicate 6 true <:+: dataBits frame

/-- R81 (b) 41_serializer_nrzi.md: in LINE every run of six 1s lies inside a flag, and the pattern 01111110 starts only where a flag starts. -/
def Obligations.FlagPatternOnlyAtFlags : Prop :=
  ∀ (npre npost : Nat) (frame : List Byte) (i : Nat),
    let line := lineBits npre npost frame
    ((line.drop i).take 6 = List.replicate 6 true → ∃ j, flagStart npre (dataBits frame).length npost j ∧ i = j + 1)
      ∧ ((line.drop i).take 8 = [false, true, true, true, true, true, true, false] → flagStart npre (dataBits frame).length npost i)

/-- R81 (c) 41_serializer_nrzi.md: deleting the bit after every run of five 1s gives back the frame's bits, least significant first. -/
def Obligations.UnstuffInvertsStuffing : Prop :=
  ∀ frame : List Byte, unstuff 0 (dataBits frame) = frame.flatMap fun b => (List.range 8).map b.getLsbD

/-- R80 41_serializer_nrzi.md: the line length, the bound on the stuffed bits, and the largest line. -/
def Obligations.LineLengthFormula : Prop :=
  ∀ (npre npost : Nat) (frame : List Byte),
    let n := stuffCount 0 (lineOrder frame)
    (lineBits npre npost frame).length = 8 * npre + 8 * frame.length + n + 8 * npost
      ∧ n ≤ 8 * frame.length / 5
      ∧ (npre ≤ 255 → npost ≤ 255 → frame.length ≤ 330 → (lineBits npre npost frame).length ≤ 7248)

/-- R83 41_serializer_nrzi.md: a line bit is 1 exactly when the symbol equals the one before it; inverting every symbol and the initial one is the encoding
from the inverted level, so the decoded bits are the same. -/
def Obligations.NrziDecodeRecoversLine : Prop :=
  ∀ (init : Bool) (line : List Bool),
    (nrzi init line).length = line.length
      ∧ (∀ i, i < line.length →
          (line.getD i false = true ↔ (nrzi init line).getD i false = (if i = 0 then init else (nrzi init line).getD (i - 1) false)))
      ∧ (nrzi init line).map (!·) = nrzi (!init) line

/-! ## Tones -/

/-- R87 42_afsk_dds.md: every audio sample lies in -32767..32767. -/
def Obligations.AudioSamplesBounded : Prop :=
  ∀ (pol : Bool) (phi : BitVec 8) (syms : List Bool) (x : Half), x ∈ afsk pol phi syms → -32767 ≤ x.toInt ∧ x.toInt ≤ 32767

/-- R89 42_afsk_dds.md: consecutive audio samples differ by at most 9403, across symbol boundaries too. -/
def Obligations.AudioStepsBounded : Prop :=
  ∀ (pol : Bool) (syms : List Bool) (n : Nat), n + 1 < (afsk pol 0#8 syms).length →
    |((afsk pol 0#8 syms).getD (n + 1) 0#16).toInt - ((afsk pol 0#8 syms).getD n 0#16).toInt| ≤ 9403

/-- R85 42_afsk_dds.md: sample n is SIN240 at the sum of all increments up to and including it, modulo 240: the phase is never reset between symbols. -/
def Obligations.AudioPhaseIsRunningSum : Prop :=
  ∀ (pol : Bool) (syms : List Bool) (n : Nat), n < 40 * syms.length →
    ((afsk pol 0#8 syms).getD n 0#16).toInt
      = sin240 ((sumTo (fun i => if syms.getD (i / 40) false ^^ pol then 6 else 11) (n + 1)) % 240).toNat

/-- V-DDS of 95_test_vectors.md (R82, R84): inverting the NRZI start level and the polarity together gives the same audio. -/
def Obligations.PolarityAndLevelSymmetry : Prop :=
  ∀ (init pol : Bool) (line : List Bool), afsk pol 0#8 (nrzi init line) = afsk (!pol) 0#8 (nrzi (!init) line)

/-- R92 43_fm_modulator.md: for baseband sample n, ψ is the exact running sum of s·K modulo 2^32, the index is ψ[31:22], I is SIN1024 a quarter turn on
and Q is SIN1024 at the index, for every audio sequence and every K. -/
def Obligations.FmPhaseIsRunningSum : Prop :=
  ∀ (k : BitVec 16) (xs : List Half) (n : Nat), n < xs.length →
    let psi : Nat := (sumTo (fun i => (xs.getD i 0#16).toInt * (k.toNat : Int)) (n + 1) % 2 ^ 32).toNat
    let idx : Nat := psi / 2 ^ 22
    ∃ c, (fm k 0#32 xs)[n]? = some c ∧ c.re.toInt = sin1024 ((idx + 256) % 1024) ∧ c.im.toInt = sin1024 idx

/-- R95 43_fm_modulator.md: the accumulator step, read as an s32, is exactly s·K. -/
def Obligations.FmStepIsExact : Prop :=
  ∀ (k : BitVec 16) (psi : BitVec 32) (x : Half), (fmNext k psi x - psi).toInt = x.toInt * (k.toNat : Int)

/-- R94 43_fm_modulator.md: every baseband component lies in -32767..32767. -/
def Obligations.BasebandBounded : Prop :=
  ∀ psi : BitVec 32, -32767 ≤ (fmOut psi).re.toInt ∧ (fmOut psi).re.toInt ≤ 32767 ∧ -32767 ≤ (fmOut psi).im.toInt ∧ (fmOut psi).im.toInt ≤ 32767

/-! ## Interpolator -/

/-- R103 44_fir_interpolator.md: the polyphase interpolator gives exactly the direct form with zero-stuffed input, for every tap set, on both components. -/
def Obligations.PolyphaseEqualsDirectForm : Prop :=
  ∀ (h : Nat → Int) (l tpp : Nat) (xs : List Cplx) (m : Nat), 0 < l → 0 < tpp → m < l * xs.length →
    (fir h l tpp (List.replicate tpp ⟨0#16, 0#16⟩) xs)[m]?
      = some ((directForm h l tpp (xs.map fun x => x.re.toInt) m + 2 ^ 13) / 2 ^ 14,
              (directForm h l tpp (xs.map fun x => x.im.toInt) m + 2 ^ 13) / 2 ^ 14)

/-- R104 44_fir_interpolator.md: with every branch sum 2^14, a constant input comes out unchanged from the TPP-th input on. -/
def Obligations.UnitBranchSumsPassConstants : Prop :=
  ∀ (h : Nat → Int) (l tpp n m : Nat) (c : Cplx), 0 < l → 0 < tpp →
    (∀ p, p < l → sumTo (fun j => h (p + j * l)) tpp = 2 ^ 14) →
    l * (tpp - 1) ≤ m → m < l * n →
    (fir h l tpp (List.replicate tpp ⟨0#16, 0#16⟩) (List.replicate n c))[m]? = some (c.re.toInt, c.im.toInt)

/-- R102 44_fir_interpolator.md: with 16-bit taps, at most 255 of them, and inputs in -32767..32767, every output is at most 16,711,170 in magnitude. -/
def Obligations.InterpolatorOutputFits : Prop :=
  ∀ (h : Nat → Int) (l p : Nat) (d : List Cplx),
    (∀ t, -32768 ≤ h t ∧ h t ≤ 32767) → d.length ≤ 255 →
    (∀ x, x ∈ d → |x.re.toInt| ≤ 32767 ∧ |x.im.toInt| ≤ 32767) →
    |(branchOut h l p d).1| ≤ 16711170 ∧ |(branchOut h l p d).2| ≤ 16711170

/-! ## Sample sink -/

/-- R107 45_sample_sink.md: S8 multiplies by 127, truncates y·127/32768 toward zero and clamps; full scale gives at most 126, and the ends are reached only from
32768 on. -/
def Obligations.SignedByteTruncatesAndClamps : Prop :=
  ∀ y : Int,
    let q : Int := if 0 ≤ y then y * 127 / 32768 else -(-y * 127 / 32768)
    (s8 y).toInt = (if q < -128 then -128 else if 127 < q then 127 else q)
      ∧ (|y| ≤ 32767 → |(s8 y).toInt| ≤ 126)
      ∧ (32768 ≤ y → (s8 y).toInt = 127) ∧ (y ≤ -33027 → (s8 y).toInt = -128)

/-- R108 45_sample_sink.md: the four bytes, least significant first, are a normal binary32 number whose value is exactly y / 2^15 (sign, exponent e and
hidden-bit mantissa m with m·2^e = |y|·2^135), or all zero for y = 0. -/
def Obligations.FloatEncodingIsExact : Prop :=
  ∀ y : Int, |y| < 2 ^ 24 →
    (f32 y).length = 4
      ∧ let bits := ((f32 y).getD 0 0#8).toNat + 256 * ((f32 y).getD 1 0#8).toNat + 65536 * ((f32 y).getD 2 0#8).toNat
          + 16777216 * ((f32 y).getD 3 0#8).toNat
        (y = 0 → bits = 0)
          ∧ (y ≠ 0 →
              let e := bits / 2 ^ 23 % 256
              let m := 2 ^ 23 + bits % 2 ^ 23
              (bits / 2 ^ 31 = if y < 0 then 1 else 0) ∧ 112 ≤ e ∧ e ≤ 135 ∧ m * 2 ^ e = y.natAbs * 2 ^ 135)

/-- R111 45_sample_sink.md: the length of the output of every accepted START, by format, and its bounds. -/
def Obligations.OutputLengthByFormat : Prop :=
  ∀ s : State, s.mode = .idle → s.check = none →
    ∃ t, exec .start s = .next t
      ∧ t.outseq.length =
          (if s.regs.fmt = 0#2 then 2 * s.regs.l.toNat * (40 * t.bitCount.toNat + s.regs.flush.toNat)
           else if s.regs.fmt = 1#2 then 8 * s.regs.l.toNat * (40 * t.bitCount.toNat + s.regs.flush.toNat)
           else 160 * t.bitCount.toNat)
      ∧ 12800 ≤ t.outseq.length ∧ t.outseq.length ≤ 181992960

/-- R109 45_sample_sink.md: in PCM_F32 the output is the float of each audio sample; FM_K, L, TPP, FLUSH and COEF do not affect it. -/
def Obligations.PcmOutputIgnoresFmAndFir : Prop :=
  ∀ (s : State) (fmK flush : BitVec 16) (l : BitVec 7) (tpp : BitVec 8) (coef : Memory 16), s.regs.fmt = 2#2 →
    let t := { s with regs := { s.regs with fmK := fmK, flush := flush, l := l, tpp := tpp }, coef := coef }
    t.outseq = s.outseq
      ∧ s.outseq = (afsk s.regs.pol 0#8 (nrzi s.regs.nrziInit (lineBits s.regs.npre s.regs.npost s.frameBytes))).flatMap fun x => f32 x.toInt

/-- R123 46_commands.md, R92, R99, R101: the interpolator's output is the filter, from TPP zeros, over the FM of the line's audio and then FLUSH zeros.
R110 45_sample_sink.md, R49 20_memory.md: in the IQ formats output m of it gives, in time order, the bytes of I and then of Q. -/
def Obligations.IqBytesInOrder : Prop :=
  ∀ s : State,
    let audio := afsk s.regs.pol 0#8 (nrzi s.regs.nrziInit (lineBits s.regs.npre s.regs.npost s.frameBytes))
    let input := fm s.regs.fmK 0#32 audio ++ List.replicate s.regs.flush.toNat ⟨0#16, 0#16⟩
    let output := fir (fun t => (s.coefWord t).toInt) s.regs.l.toNat s.regs.tpp.toNat (List.replicate s.regs.tpp.toNat ⟨0#16, 0#16⟩) input
    (s.regs.fmt = 0#2 → s.outseq.length = 2 * output.length) ∧ (s.regs.fmt = 1#2 → s.outseq.length = 8 * output.length)
      ∧ ∀ (m : Nat) (y : YWord), output[m]? = some y →
        (s.regs.fmt = 0#2 → s.outseq[2 * m]? = some (s8 y.1) ∧ s.outseq[2 * m + 1]? = some (s8 y.2))
          ∧ (s.regs.fmt = 1#2 → ∀ j, j < 4 → s.outseq[8 * m + j]? = (f32 y.1)[j]? ∧ s.outseq[8 * m + 4 + j]? = (f32 y.2)[j]?)

/-! ## Transmission and whole-machine rules -/

/-- R124, R125 46_commands.md, R112 45_sample_sink.md: in RUN a sink acceptance moves OUTSEQ[OUTPOS], which is the byte at the port, counts it, completes the
run exactly at the end, and changes nothing else but the pipeline. -/
def Obligations.AcceptMovesNextByte : Prop :=
  ∀ (s : State) (rest : List Event), s.Inv → s.mode = .run → s.inbox = .sinkReady :: rest →
    ∃ t, step s = .next t
      ∧ s.outValid = true ∧ s.outseq[s.outPos.toNat]? = some s.outData
      ∧ t.sinkGot = s.outData :: s.sinkGot ∧ t.outPos.toNat = s.outPos.toNat + 1
      ∧ (t.outPos.toNat = s.outseq.length → t.mode = .idle ∧ t.done = true)
      ∧ (t.outPos.toNat ≠ s.outseq.length → t.mode = .run ∧ t.done = s.done)
      ∧ t = { s with
          inbox := rest, sinkGot := t.sinkGot, outPos := t.outPos, mode := t.mode, done := t.done, pipe := t.pipe }

/-- R112 45_sample_sink.md, R124 46_commands.md: outside RUN out_valid and out_data are 0, and a sink that is ready gets nothing. That
such an event exists there is the model's reading (log 3). -/
def Obligations.NoByteMovesOutsideRun : Prop :=
  ∀ (s : State) (rest : List Event), s.mode ≠ .run →
    s.outValid = false ∧ s.outData = 0#8 ∧ (s.inbox = .sinkReady :: rest → step s = .next { s with inbox := rest })

/-- R133 60_exceptions.md, R113 45_sample_sink.md: a sink error in RUN records SinkWriteError and ends the run in IDLE, DONE and OUT_COUNT as they were; in IDLE
and FAULT it has no effect. That the pipeline registers stay as they were, too, is the model's choice (log 12), no rule's. -/
def Obligations.SinkErrorAbortsRun : Prop :=
  ∀ (s : State) (rest : List Event), s.inbox = .sinkError :: rest →
    (s.mode = .run → ∃ t, step s = .next t ∧ t = { (s.setInbox rest).raise .sinkWriteError 0xFF#8 with mode := .idle }
        ∧ t.outPos = s.outPos ∧ t.done = s.done ∧ t.outValid = false ∧ t.sinkGot = s.sinkGot)
      ∧ (s.mode ≠ .run → step s = .next (s.setInbox rest))

/-- R126 46_commands.md, R56 20_memory.md: from any state of a run, as many sink acceptances as bytes are left end the run completed, and the sink then has
the rest of OUTSEQ in order, each byte once (and, with what it had, all of OUTSEQ). That the inbox
holds those acceptances is a hypothesis, the model's way to say the sink's fairness (log 10). -/
def Obligations.RunDeliversOutseq : Prop :=
  ∀ (s : State) (rest : List Event), s.Inv → s.mode = .run →
    s.inbox = List.replicate (s.outseq.length - s.outPos.toNat) .sinkReady ++ rest →
    ∃ t, core.run (s.outseq.length - s.outPos.toNat) s = .next t
      ∧ t.mode = .idle ∧ t.done = true ∧ t.outPos.toNat = s.outseq.length ∧ t.inbox = rest
      ∧ t.sinkGot = (s.outseq.drop s.outPos.toNat).reverse ++ s.sinkGot
      ∧ (t.sinkGot.take s.outseq.length).reverse = s.outseq
      ∧ t.err = s.err ∧ t.regs = s.regs ∧ t.fcs = s.fcs ∧ t.frameLen = s.frameLen ∧ t.bitCount = s.bitCount

/-- THE INVARIANT (R26, R38, R39 10_state.md; R123, R124 46_commands.md; R56 20_memory.md): every step from a state that meets it answers a state that meets
it: memories canonical, registers in range, and in RUN the pipeline stands for OUTSEQ from OUTPOS on and the sink has the bytes before.
The canonical form and the streaming pipeline are the model's choices (log 6, log 8). -/
def Obligations.StepKeepsInvariant : Prop :=
  ∀ (s t : State), s.Inv → step s = .next t → t.Inv

/-- The state after reset meets the invariant (R146 70_reset_and_hazards.md; the values of log 7 enter it). -/
def Obligations.ResetMeetsInvariant : Prop := State.reset.Inv

/-- R114, R124 46_commands.md: from a state that meets the invariant every step answers a next state: the model's fault (log 9) is never raised. -/
def Obligations.InvariantNeverFaults : Prop := ∀ s : State, s.Inv → ∃ t, step s = .next t

/-- R134 60_exceptions.md: mode FAULT is unreachable: no step from any state outside FAULT enters it. -/
def Obligations.FaultModeUnreachable : Prop :=
  ∀ (s t : State), s.mode ≠ .fault → step s = .next t → t.mode ≠ .fault

/-- R34 10_state.md, R134 60_exceptions.md: only a reset leaves FAULT; till then no byte moves and no locked-class register changes. -/
def Obligations.FaultLeftOnlyByReset : Prop :=
  ∀ (s t : State), s.mode = .fault → step s = .next t →
    (t.mode = .fault ∧ t.sinkGot = s.sinkGot ∧ t.regs = s.regs ∧ t.infoLen = s.infoLen ∧ t.outPos = s.outPos)
      ∨ ∃ e rest, s.inbox = e :: rest ∧ e.isReset = true ∧ t.mode = .idle

/-- R126 46_commands.md: a run ends completed, aborted by the sink, or by a reset, and in no other way; the state after each. -/
def Obligations.RunEndsInStatedWays : Prop :=
  ∀ (s t : State), s.Inv → s.mode = .run → step s = .next t → t.mode ≠ .run →
    ∃ e rest, s.inbox = e :: rest ∧ t.mode = .idle
      ∧ ((e = .sinkReady ∧ t.done = true ∧ t.outPos.toNat = s.outseq.length ∧ (t.sinkGot.take s.outseq.length).reverse = s.outseq)
        ∨ (e = .sinkError ∧ t.done = false ∧ t.err = true ∧ (s.err = false → t.errKind = .sinkWriteError) ∧ t.outPos = s.outPos
            ∧ (t.sinkGot.take t.outPos.toNat).reverse = s.outseq.take t.outPos.toNat)
        ∨ (e.isReset = true ∧ t.outPos = 0#32 ∧ t.done = false ∧ t.err = false))

/-- R59 20_memory.md, R123 46_commands.md: while a run goes on, whatever the host and the sink do, no configuration register, coefficient or frame byte
changes, so OUTSEQ is the one fixed at START. -/
def Obligations.OutseqFixedDuringRun : Prop :=
  ∀ (s t : State), s.mode = .run → step s = .next t → t.mode = .run →
    t.outseq = s.outseq ∧ t.regs = s.regs ∧ t.coef = s.coef ∧ t.info = s.info ∧ t.infoLen = s.infoLen ∧ t.frame = s.frame
      ∧ t.frameLen = s.frameLen ∧ t.fcs = s.fcs ∧ t.bitCount = s.bitCount

/-- R15 10_state.md, R39: what each non-command, non-reset event may write: INFO, INFO_LEN, FCS, FRAME, FRAME_LEN and BIT_COUNT change only by commands and
resets. -/
def Obligations.ResultRegistersChangeOnlyByCommands : Prop :=
  ∀ (s t : State) (e : Event) (rest : List Event), s.inbox = e :: rest → commandWord e = none → e ≠ .hwReset → step s = .next t →
    t.info = s.info ∧ t.infoLen = s.infoLen ∧ t.fcs = s.fcs ∧ t.frame = s.frame ∧ t.frameLen = s.frameLen ∧ t.bitCount = s.bitCount
end

