-- ==== Sys2Proof/Laws/State.lean ====
section
/-! SUPPORT. What each named update of the state does to each field: one lemma per field per update. -/

namespace Sys2Proof.Machine.State

variable (s : State)

/-! ### setWign -/

@[simp] theorem setWign_mode : (s.setWign).mode = s.mode := rfl
@[simp] theorem setWign_ctrl : (s.setWign).ctrl = s.ctrl := rfl
@[simp] theorem setWign_done : (s.setWign).done = s.done := rfl
@[simp] theorem setWign_err : (s.setWign).err = s.err := rfl
@[simp] theorem setWign_ovf : (s.setWign).ovf = s.ovf := rfl
@[simp] theorem setWign_wign : (s.setWign).wign = true := rfl
@[simp] theorem setWign_errKind : (s.setWign).errKind = s.errKind := rfl
@[simp] theorem setWign_errIndex : (s.setWign).errIndex = s.errIndex := rfl
@[simp] theorem setWign_regs : (s.setWign).regs = s.regs := rfl
@[simp] theorem setWign_infoLen : (s.setWign).infoLen = s.infoLen := rfl
@[simp] theorem setWign_fcs : (s.setWign).fcs = s.fcs := rfl
@[simp] theorem setWign_frameLen : (s.setWign).frameLen = s.frameLen := rfl
@[simp] theorem setWign_bitCount : (s.setWign).bitCount = s.bitCount := rfl
@[simp] theorem setWign_outPos : (s.setWign).outPos = s.outPos := rfl
@[simp] theorem setWign_coef : (s.setWign).coef = s.coef := rfl
@[simp] theorem setWign_info : (s.setWign).info = s.info := rfl
@[simp] theorem setWign_frame : (s.setWign).frame = s.frame := rfl
@[simp] theorem setWign_pipe : (s.setWign).pipe = s.pipe := rfl
@[simp] theorem setWign_draw : (s.setWign).draw = s.draw := rfl
@[simp] theorem setWign_inbox : (s.setWign).inbox = s.inbox := rfl
@[simp] theorem setWign_hostGot : (s.setWign).hostGot = s.hostGot := rfl
@[simp] theorem setWign_sinkGot : (s.setWign).sinkGot = s.sinkGot := rfl

/-! ### setInbox -/

@[simp] theorem setInbox_mode (es : List Event) : (s.setInbox es).mode = s.mode := rfl
@[simp] theorem setInbox_ctrl (es : List Event) : (s.setInbox es).ctrl = s.ctrl := rfl
@[simp] theorem setInbox_done (es : List Event) : (s.setInbox es).done = s.done := rfl
@[simp] theorem setInbox_err (es : List Event) : (s.setInbox es).err = s.err := rfl
@[simp] theorem setInbox_ovf (es : List Event) : (s.setInbox es).ovf = s.ovf := rfl
@[simp] theorem setInbox_wign (es : List Event) : (s.setInbox es).wign = s.wign := rfl
@[simp] theorem setInbox_errKind (es : List Event) : (s.setInbox es).errKind = s.errKind := rfl
@[simp] theorem setInbox_errIndex (es : List Event) : (s.setInbox es).errIndex = s.errIndex := rfl
@[simp] theorem setInbox_regs (es : List Event) : (s.setInbox es).regs = s.regs := rfl
@[simp] theorem setInbox_infoLen (es : List Event) : (s.setInbox es).infoLen = s.infoLen := rfl
@[simp] theorem setInbox_fcs (es : List Event) : (s.setInbox es).fcs = s.fcs := rfl
@[simp] theorem setInbox_frameLen (es : List Event) : (s.setInbox es).frameLen = s.frameLen := rfl
@[simp] theorem setInbox_bitCount (es : List Event) : (s.setInbox es).bitCount = s.bitCount := rfl
@[simp] theorem setInbox_outPos (es : List Event) : (s.setInbox es).outPos = s.outPos := rfl
@[simp] theorem setInbox_coef (es : List Event) : (s.setInbox es).coef = s.coef := rfl
@[simp] theorem setInbox_info (es : List Event) : (s.setInbox es).info = s.info := rfl
@[simp] theorem setInbox_frame (es : List Event) : (s.setInbox es).frame = s.frame := rfl
@[simp] theorem setInbox_pipe (es : List Event) : (s.setInbox es).pipe = s.pipe := rfl
@[simp] theorem setInbox_draw (es : List Event) : (s.setInbox es).draw = s.draw := rfl
@[simp] theorem setInbox_inbox (es : List Event) : (s.setInbox es).inbox = es := rfl
@[simp] theorem setInbox_hostGot (es : List Event) : (s.setInbox es).hostGot = s.hostGot := rfl
@[simp] theorem setInbox_sinkGot (es : List Event) : (s.setInbox es).sinkGot = s.sinkGot := rfl

/-! ### giveHost -/

@[simp] theorem giveHost_mode (v : Word) : (s.giveHost v).mode = s.mode := rfl
@[simp] theorem giveHost_ctrl (v : Word) : (s.giveHost v).ctrl = s.ctrl := rfl
@[simp] theorem giveHost_done (v : Word) : (s.giveHost v).done = s.done := rfl
@[simp] theorem giveHost_err (v : Word) : (s.giveHost v).err = s.err := rfl
@[simp] theorem giveHost_ovf (v : Word) : (s.giveHost v).ovf = s.ovf := rfl
@[simp] theorem giveHost_wign (v : Word) : (s.giveHost v).wign = s.wign := rfl
@[simp] theorem giveHost_errKind (v : Word) : (s.giveHost v).errKind = s.errKind := rfl
@[simp] theorem giveHost_errIndex (v : Word) : (s.giveHost v).errIndex = s.errIndex := rfl
@[simp] theorem giveHost_regs (v : Word) : (s.giveHost v).regs = s.regs := rfl
@[simp] theorem giveHost_infoLen (v : Word) : (s.giveHost v).infoLen = s.infoLen := rfl
@[simp] theorem giveHost_fcs (v : Word) : (s.giveHost v).fcs = s.fcs := rfl
@[simp] theorem giveHost_frameLen (v : Word) : (s.giveHost v).frameLen = s.frameLen := rfl
@[simp] theorem giveHost_bitCount (v : Word) : (s.giveHost v).bitCount = s.bitCount := rfl
@[simp] theorem giveHost_outPos (v : Word) : (s.giveHost v).outPos = s.outPos := rfl
@[simp] theorem giveHost_coef (v : Word) : (s.giveHost v).coef = s.coef := rfl
@[simp] theorem giveHost_info (v : Word) : (s.giveHost v).info = s.info := rfl
@[simp] theorem giveHost_frame (v : Word) : (s.giveHost v).frame = s.frame := rfl
@[simp] theorem giveHost_pipe (v : Word) : (s.giveHost v).pipe = s.pipe := rfl
@[simp] theorem giveHost_draw (v : Word) : (s.giveHost v).draw = s.draw := rfl
@[simp] theorem giveHost_inbox (v : Word) : (s.giveHost v).inbox = s.inbox := rfl
@[simp] theorem giveHost_hostGot (v : Word) : (s.giveHost v).hostGot = v :: s.hostGot := rfl
@[simp] theorem giveHost_sinkGot (v : Word) : (s.giveHost v).sinkGot = s.sinkGot := rfl

/-! ### setCtrl -/

@[simp] theorem setCtrl_mode (v : BitVec 2) : (s.setCtrl v).mode = s.mode := rfl
@[simp] theorem setCtrl_ctrl (v : BitVec 2) : (s.setCtrl v).ctrl = v := rfl
@[simp] theorem setCtrl_done (v : BitVec 2) : (s.setCtrl v).done = s.done := rfl
@[simp] theorem setCtrl_err (v : BitVec 2) : (s.setCtrl v).err = s.err := rfl
@[simp] theorem setCtrl_ovf (v : BitVec 2) : (s.setCtrl v).ovf = s.ovf := rfl
@[simp] theorem setCtrl_wign (v : BitVec 2) : (s.setCtrl v).wign = s.wign := rfl
@[simp] theorem setCtrl_errKind (v : BitVec 2) : (s.setCtrl v).errKind = s.errKind := rfl
@[simp] theorem setCtrl_errIndex (v : BitVec 2) : (s.setCtrl v).errIndex = s.errIndex := rfl
@[simp] theorem setCtrl_regs (v : BitVec 2) : (s.setCtrl v).regs = s.regs := rfl
@[simp] theorem setCtrl_infoLen (v : BitVec 2) : (s.setCtrl v).infoLen = s.infoLen := rfl
@[simp] theorem setCtrl_fcs (v : BitVec 2) : (s.setCtrl v).fcs = s.fcs := rfl
@[simp] theorem setCtrl_frameLen (v : BitVec 2) : (s.setCtrl v).frameLen = s.frameLen := rfl
@[simp] theorem setCtrl_bitCount (v : BitVec 2) : (s.setCtrl v).bitCount = s.bitCount := rfl
@[simp] theorem setCtrl_outPos (v : BitVec 2) : (s.setCtrl v).outPos = s.outPos := rfl
@[simp] theorem setCtrl_coef (v : BitVec 2) : (s.setCtrl v).coef = s.coef := rfl
@[simp] theorem setCtrl_info (v : BitVec 2) : (s.setCtrl v).info = s.info := rfl
@[simp] theorem setCtrl_frame (v : BitVec 2) : (s.setCtrl v).frame = s.frame := rfl
@[simp] theorem setCtrl_pipe (v : BitVec 2) : (s.setCtrl v).pipe = s.pipe := rfl
@[simp] theorem setCtrl_draw (v : BitVec 2) : (s.setCtrl v).draw = s.draw := rfl
@[simp] theorem setCtrl_inbox (v : BitVec 2) : (s.setCtrl v).inbox = s.inbox := rfl
@[simp] theorem setCtrl_hostGot (v : BitVec 2) : (s.setCtrl v).hostGot = s.hostGot := rfl
@[simp] theorem setCtrl_sinkGot (v : BitVec 2) : (s.setCtrl v).sinkGot = s.sinkGot := rfl

/-! ### setRegs -/

@[simp] theorem setRegs_mode (r : Regs) : (s.setRegs r).mode = s.mode := rfl
@[simp] theorem setRegs_ctrl (r : Regs) : (s.setRegs r).ctrl = s.ctrl := rfl
@[simp] theorem setRegs_done (r : Regs) : (s.setRegs r).done = s.done := rfl
@[simp] theorem setRegs_err (r : Regs) : (s.setRegs r).err = s.err := rfl
@[simp] theorem setRegs_ovf (r : Regs) : (s.setRegs r).ovf = s.ovf := rfl
@[simp] theorem setRegs_wign (r : Regs) : (s.setRegs r).wign = s.wign := rfl
@[simp] theorem setRegs_errKind (r : Regs) : (s.setRegs r).errKind = s.errKind := rfl
@[simp] theorem setRegs_errIndex (r : Regs) : (s.setRegs r).errIndex = s.errIndex := rfl
@[simp] theorem setRegs_regs (r : Regs) : (s.setRegs r).regs = r := rfl
@[simp] theorem setRegs_infoLen (r : Regs) : (s.setRegs r).infoLen = s.infoLen := rfl
@[simp] theorem setRegs_fcs (r : Regs) : (s.setRegs r).fcs = s.fcs := rfl
@[simp] theorem setRegs_frameLen (r : Regs) : (s.setRegs r).frameLen = s.frameLen := rfl
@[simp] theorem setRegs_bitCount (r : Regs) : (s.setRegs r).bitCount = s.bitCount := rfl
@[simp] theorem setRegs_outPos (r : Regs) : (s.setRegs r).outPos = s.outPos := rfl
@[simp] theorem setRegs_coef (r : Regs) : (s.setRegs r).coef = s.coef := rfl
@[simp] theorem setRegs_info (r : Regs) : (s.setRegs r).info = s.info := rfl
@[simp] theorem setRegs_frame (r : Regs) : (s.setRegs r).frame = s.frame := rfl
@[simp] theorem setRegs_pipe (r : Regs) : (s.setRegs r).pipe = s.pipe := rfl
@[simp] theorem setRegs_draw (r : Regs) : (s.setRegs r).draw = s.draw := rfl
@[simp] theorem setRegs_inbox (r : Regs) : (s.setRegs r).inbox = s.inbox := rfl
@[simp] theorem setRegs_hostGot (r : Regs) : (s.setRegs r).hostGot = s.hostGot := rfl
@[simp] theorem setRegs_sinkGot (r : Regs) : (s.setRegs r).sinkGot = s.sinkGot := rfl

/-! ### pushCoef -/

@[simp] theorem pushCoef_mode (v : Half) : (s.pushCoef v).mode = s.mode := rfl
@[simp] theorem pushCoef_ctrl (v : Half) : (s.pushCoef v).ctrl = s.ctrl := rfl
@[simp] theorem pushCoef_done (v : Half) : (s.pushCoef v).done = s.done := rfl
@[simp] theorem pushCoef_err (v : Half) : (s.pushCoef v).err = s.err := rfl
@[simp] theorem pushCoef_ovf (v : Half) : (s.pushCoef v).ovf = s.ovf := rfl
@[simp] theorem pushCoef_wign (v : Half) : (s.pushCoef v).wign = s.wign := rfl
@[simp] theorem pushCoef_errKind (v : Half) : (s.pushCoef v).errKind = s.errKind := rfl
@[simp] theorem pushCoef_errIndex (v : Half) : (s.pushCoef v).errIndex = s.errIndex := rfl
@[simp] theorem pushCoef_regs (v : Half) : (s.pushCoef v).regs = { s.regs with coefPtr := s.regs.coefPtr + 1#12 } := rfl
@[simp] theorem pushCoef_infoLen (v : Half) : (s.pushCoef v).infoLen = s.infoLen := rfl
@[simp] theorem pushCoef_fcs (v : Half) : (s.pushCoef v).fcs = s.fcs := rfl
@[simp] theorem pushCoef_frameLen (v : Half) : (s.pushCoef v).frameLen = s.frameLen := rfl
@[simp] theorem pushCoef_bitCount (v : Half) : (s.pushCoef v).bitCount = s.bitCount := rfl
@[simp] theorem pushCoef_outPos (v : Half) : (s.pushCoef v).outPos = s.outPos := rfl
@[simp] theorem pushCoef_coef (v : Half) : (s.pushCoef v).coef = Memory.write s.regs.coefPtr.toNat v s.coef := rfl
@[simp] theorem pushCoef_info (v : Half) : (s.pushCoef v).info = s.info := rfl
@[simp] theorem pushCoef_frame (v : Half) : (s.pushCoef v).frame = s.frame := rfl
@[simp] theorem pushCoef_pipe (v : Half) : (s.pushCoef v).pipe = s.pipe := rfl
@[simp] theorem pushCoef_draw (v : Half) : (s.pushCoef v).draw = s.draw := rfl
@[simp] theorem pushCoef_inbox (v : Half) : (s.pushCoef v).inbox = s.inbox := rfl
@[simp] theorem pushCoef_hostGot (v : Half) : (s.pushCoef v).hostGot = s.hostGot := rfl
@[simp] theorem pushCoef_sinkGot (v : Half) : (s.pushCoef v).sinkGot = s.sinkGot := rfl

/-! ### clearInfo -/

@[simp] theorem clearInfo_mode : s.clearInfo.mode = s.mode := rfl
@[simp] theorem clearInfo_ctrl : s.clearInfo.ctrl = s.ctrl := rfl
@[simp] theorem clearInfo_done : s.clearInfo.done = s.done := rfl
@[simp] theorem clearInfo_err : s.clearInfo.err = s.err := rfl
@[simp] theorem clearInfo_ovf : s.clearInfo.ovf = s.ovf := rfl
@[simp] theorem clearInfo_wign : s.clearInfo.wign = s.wign := rfl
@[simp] theorem clearInfo_errKind : s.clearInfo.errKind = s.errKind := rfl
@[simp] theorem clearInfo_errIndex : s.clearInfo.errIndex = s.errIndex := rfl
@[simp] theorem clearInfo_regs : s.clearInfo.regs = s.regs := rfl
@[simp] theorem clearInfo_infoLen : s.clearInfo.infoLen = 0#9 := rfl
@[simp] theorem clearInfo_fcs : s.clearInfo.fcs = s.fcs := rfl
@[simp] theorem clearInfo_frameLen : s.clearInfo.frameLen = s.frameLen := rfl
@[simp] theorem clearInfo_bitCount : s.clearInfo.bitCount = s.bitCount := rfl
@[simp] theorem clearInfo_outPos : s.clearInfo.outPos = s.outPos := rfl
@[simp] theorem clearInfo_coef : s.clearInfo.coef = s.coef := rfl
@[simp] theorem clearInfo_info : s.clearInfo.info = s.info := rfl
@[simp] theorem clearInfo_frame : s.clearInfo.frame = s.frame := rfl
@[simp] theorem clearInfo_pipe : s.clearInfo.pipe = s.pipe := rfl
@[simp] theorem clearInfo_draw : s.clearInfo.draw = s.draw := rfl
@[simp] theorem clearInfo_inbox : s.clearInfo.inbox = s.inbox := rfl
@[simp] theorem clearInfo_hostGot : s.clearInfo.hostGot = s.hostGot := rfl
@[simp] theorem clearInfo_sinkGot : s.clearInfo.sinkGot = s.sinkGot := rfl

/-! ### pushInfoByte -/

@[simp] theorem pushInfoByte_mode (b : Byte) : (s.pushInfoByte b).mode = s.mode := rfl
@[simp] theorem pushInfoByte_ctrl (b : Byte) : (s.pushInfoByte b).ctrl = s.ctrl := rfl
@[simp] theorem pushInfoByte_done (b : Byte) : (s.pushInfoByte b).done = s.done := rfl
@[simp] theorem pushInfoByte_err (b : Byte) : (s.pushInfoByte b).err = s.err := rfl
@[simp] theorem pushInfoByte_ovf (b : Byte) : (s.pushInfoByte b).ovf = s.ovf := rfl
@[simp] theorem pushInfoByte_wign (b : Byte) : (s.pushInfoByte b).wign = s.wign := rfl
@[simp] theorem pushInfoByte_errKind (b : Byte) : (s.pushInfoByte b).errKind = s.errKind := rfl
@[simp] theorem pushInfoByte_errIndex (b : Byte) : (s.pushInfoByte b).errIndex = s.errIndex := rfl
@[simp] theorem pushInfoByte_regs (b : Byte) : (s.pushInfoByte b).regs = s.regs := rfl
@[simp] theorem pushInfoByte_infoLen (b : Byte) : (s.pushInfoByte b).infoLen = s.infoLen + 1#9 := rfl
@[simp] theorem pushInfoByte_fcs (b : Byte) : (s.pushInfoByte b).fcs = s.fcs := rfl
@[simp] theorem pushInfoByte_frameLen (b : Byte) : (s.pushInfoByte b).frameLen = s.frameLen := rfl
@[simp] theorem pushInfoByte_bitCount (b : Byte) : (s.pushInfoByte b).bitCount = s.bitCount := rfl
@[simp] theorem pushInfoByte_outPos (b : Byte) : (s.pushInfoByte b).outPos = s.outPos := rfl
@[simp] theorem pushInfoByte_coef (b : Byte) : (s.pushInfoByte b).coef = s.coef := rfl
@[simp] theorem pushInfoByte_info (b : Byte) : (s.pushInfoByte b).info = Memory.write s.infoLen.toNat b s.info := rfl
@[simp] theorem pushInfoByte_frame (b : Byte) : (s.pushInfoByte b).frame = s.frame := rfl
@[simp] theorem pushInfoByte_pipe (b : Byte) : (s.pushInfoByte b).pipe = s.pipe := rfl
@[simp] theorem pushInfoByte_draw (b : Byte) : (s.pushInfoByte b).draw = s.draw := rfl
@[simp] theorem pushInfoByte_inbox (b : Byte) : (s.pushInfoByte b).inbox = s.inbox := rfl
@[simp] theorem pushInfoByte_hostGot (b : Byte) : (s.pushInfoByte b).hostGot = s.hostGot := rfl
@[simp] theorem pushInfoByte_sinkGot (b : Byte) : (s.pushInfoByte b).sinkGot = s.sinkGot := rfl

/-! ### ackStatus -/

@[simp] theorem ackStatus_mode (v : Word) : (s.ackStatus v).mode = s.mode := rfl
@[simp] theorem ackStatus_ctrl (v : Word) : (s.ackStatus v).ctrl = s.ctrl := rfl
@[simp] theorem ackStatus_done (v : Word) : (s.ackStatus v).done = (s.done && !v.getLsbD 1) := rfl
@[simp] theorem ackStatus_err (v : Word) : (s.ackStatus v).err = (s.err && !v.getLsbD 2) := rfl
@[simp] theorem ackStatus_ovf (v : Word) : (s.ackStatus v).ovf = (s.ovf && !v.getLsbD 3) := rfl
@[simp] theorem ackStatus_wign (v : Word) : (s.ackStatus v).wign = (s.wign && !v.getLsbD 4) := rfl
@[simp] theorem ackStatus_errKind (v : Word) : (s.ackStatus v).errKind = s.errKind := rfl
@[simp] theorem ackStatus_errIndex (v : Word) : (s.ackStatus v).errIndex = s.errIndex := rfl
@[simp] theorem ackStatus_regs (v : Word) : (s.ackStatus v).regs = s.regs := rfl
@[simp] theorem ackStatus_infoLen (v : Word) : (s.ackStatus v).infoLen = s.infoLen := rfl
@[simp] theorem ackStatus_fcs (v : Word) : (s.ackStatus v).fcs = s.fcs := rfl
@[simp] theorem ackStatus_frameLen (v : Word) : (s.ackStatus v).frameLen = s.frameLen := rfl
@[simp] theorem ackStatus_bitCount (v : Word) : (s.ackStatus v).bitCount = s.bitCount := rfl
@[simp] theorem ackStatus_outPos (v : Word) : (s.ackStatus v).outPos = s.outPos := rfl
@[simp] theorem ackStatus_coef (v : Word) : (s.ackStatus v).coef = s.coef := rfl
@[simp] theorem ackStatus_info (v : Word) : (s.ackStatus v).info = s.info := rfl
@[simp] theorem ackStatus_frame (v : Word) : (s.ackStatus v).frame = s.frame := rfl
@[simp] theorem ackStatus_pipe (v : Word) : (s.ackStatus v).pipe = s.pipe := rfl
@[simp] theorem ackStatus_draw (v : Word) : (s.ackStatus v).draw = s.draw := rfl
@[simp] theorem ackStatus_inbox (v : Word) : (s.ackStatus v).inbox = s.inbox := rfl
@[simp] theorem ackStatus_hostGot (v : Word) : (s.ackStatus v).hostGot = s.hostGot := rfl
@[simp] theorem ackStatus_sinkGot (v : Word) : (s.ackStatus v).sinkGot = s.sinkGot := rfl

/-! ### resetCore -/

@[simp] theorem resetCore_mode : s.resetCore.mode = State.reset.mode := rfl
@[simp] theorem resetCore_ctrl : s.resetCore.ctrl = State.reset.ctrl := rfl
@[simp] theorem resetCore_done : s.resetCore.done = State.reset.done := rfl
@[simp] theorem resetCore_err : s.resetCore.err = State.reset.err := rfl
@[simp] theorem resetCore_ovf : s.resetCore.ovf = State.reset.ovf := rfl
@[simp] theorem resetCore_wign : s.resetCore.wign = State.reset.wign := rfl
@[simp] theorem resetCore_errKind : s.resetCore.errKind = State.reset.errKind := rfl
@[simp] theorem resetCore_errIndex : s.resetCore.errIndex = State.reset.errIndex := rfl
@[simp] theorem resetCore_regs : s.resetCore.regs = State.reset.regs := rfl
@[simp] theorem resetCore_infoLen : s.resetCore.infoLen = State.reset.infoLen := rfl
@[simp] theorem resetCore_fcs : s.resetCore.fcs = State.reset.fcs := rfl
@[simp] theorem resetCore_frameLen : s.resetCore.frameLen = State.reset.frameLen := rfl
@[simp] theorem resetCore_bitCount : s.resetCore.bitCount = State.reset.bitCount := rfl
@[simp] theorem resetCore_outPos : s.resetCore.outPos = State.reset.outPos := rfl
@[simp] theorem resetCore_coef : s.resetCore.coef = s.coef := rfl
@[simp] theorem resetCore_info : s.resetCore.info = s.info := rfl
@[simp] theorem resetCore_frame : s.resetCore.frame = State.reset.frame := rfl
@[simp] theorem resetCore_pipe : s.resetCore.pipe = State.reset.pipe := rfl
@[simp] theorem resetCore_draw : s.resetCore.draw = s.draw := rfl
@[simp] theorem resetCore_inbox : s.resetCore.inbox = s.inbox := rfl
@[simp] theorem resetCore_hostGot : s.resetCore.hostGot = s.hostGot := rfl
@[simp] theorem resetCore_sinkGot : s.resetCore.sinkGot = s.sinkGot := rfl

/-! ### complete -/

@[simp] theorem complete_mode : s.complete.mode = .idle := rfl
@[simp] theorem complete_ctrl : s.complete.ctrl = s.ctrl := rfl
@[simp] theorem complete_done : s.complete.done = true := rfl
@[simp] theorem complete_err : s.complete.err = s.err := rfl
@[simp] theorem complete_ovf : s.complete.ovf = s.ovf := rfl
@[simp] theorem complete_wign : s.complete.wign = s.wign := rfl
@[simp] theorem complete_errKind : s.complete.errKind = s.errKind := rfl
@[simp] theorem complete_errIndex : s.complete.errIndex = s.errIndex := rfl
@[simp] theorem complete_regs : s.complete.regs = s.regs := rfl
@[simp] theorem complete_infoLen : s.complete.infoLen = s.infoLen := rfl
@[simp] theorem complete_fcs : s.complete.fcs = s.fcs := rfl
@[simp] theorem complete_frameLen : s.complete.frameLen = s.frameLen := rfl
@[simp] theorem complete_bitCount : s.complete.bitCount = s.bitCount := rfl
@[simp] theorem complete_outPos : s.complete.outPos = s.outPos := rfl
@[simp] theorem complete_coef : s.complete.coef = s.coef := rfl
@[simp] theorem complete_info : s.complete.info = s.info := rfl
@[simp] theorem complete_frame : s.complete.frame = s.frame := rfl
@[simp] theorem complete_pipe : s.complete.pipe = s.pipe := rfl
@[simp] theorem complete_draw : s.complete.draw = s.draw := rfl
@[simp] theorem complete_inbox : s.complete.inbox = s.inbox := rfl
@[simp] theorem complete_hostGot : s.complete.hostGot = s.hostGot := rfl
@[simp] theorem complete_sinkGot : s.complete.sinkGot = s.sinkGot := rfl

/-! ### moveByte -/

@[simp] theorem moveByte_mode (b : Byte) (q : Pipe) : (s.moveByte b q).mode = s.mode := rfl
@[simp] theorem moveByte_ctrl (b : Byte) (q : Pipe) : (s.moveByte b q).ctrl = s.ctrl := rfl
@[simp] theorem moveByte_done (b : Byte) (q : Pipe) : (s.moveByte b q).done = s.done := rfl
@[simp] theorem moveByte_err (b : Byte) (q : Pipe) : (s.moveByte b q).err = s.err := rfl
@[simp] theorem moveByte_ovf (b : Byte) (q : Pipe) : (s.moveByte b q).ovf = s.ovf := rfl
@[simp] theorem moveByte_wign (b : Byte) (q : Pipe) : (s.moveByte b q).wign = s.wign := rfl
@[simp] theorem moveByte_errKind (b : Byte) (q : Pipe) : (s.moveByte b q).errKind = s.errKind := rfl
@[simp] theorem moveByte_errIndex (b : Byte) (q : Pipe) : (s.moveByte b q).errIndex = s.errIndex := rfl
@[simp] theorem moveByte_regs (b : Byte) (q : Pipe) : (s.moveByte b q).regs = s.regs := rfl
@[simp] theorem moveByte_infoLen (b : Byte) (q : Pipe) : (s.moveByte b q).infoLen = s.infoLen := rfl
@[simp] theorem moveByte_fcs (b : Byte) (q : Pipe) : (s.moveByte b q).fcs = s.fcs := rfl
@[simp] theorem moveByte_frameLen (b : Byte) (q : Pipe) : (s.moveByte b q).frameLen = s.frameLen := rfl
@[simp] theorem moveByte_bitCount (b : Byte) (q : Pipe) : (s.moveByte b q).bitCount = s.bitCount := rfl
@[simp] theorem moveByte_outPos (b : Byte) (q : Pipe) : (s.moveByte b q).outPos = s.outPos + 1#32 := rfl
@[simp] theorem moveByte_coef (b : Byte) (q : Pipe) : (s.moveByte b q).coef = s.coef := rfl
@[simp] theorem moveByte_info (b : Byte) (q : Pipe) : (s.moveByte b q).info = s.info := rfl
@[simp] theorem moveByte_frame (b : Byte) (q : Pipe) : (s.moveByte b q).frame = s.frame := rfl
@[simp] theorem moveByte_pipe (b : Byte) (q : Pipe) : (s.moveByte b q).pipe = q := rfl
@[simp] theorem moveByte_draw (b : Byte) (q : Pipe) : (s.moveByte b q).draw = s.draw := rfl
@[simp] theorem moveByte_inbox (b : Byte) (q : Pipe) : (s.moveByte b q).inbox = s.inbox := rfl
@[simp] theorem moveByte_hostGot (b : Byte) (q : Pipe) : (s.moveByte b q).hostGot = s.hostGot := rfl
@[simp] theorem moveByte_sinkGot (b : Byte) (q : Pipe) : (s.moveByte b q).sinkGot = b :: s.sinkGot := rfl

/-! ### enterRun -/

@[simp] theorem enterRun_mode : s.enterRun.mode = .run := rfl
@[simp] theorem enterRun_ctrl : s.enterRun.ctrl = s.ctrl := rfl
@[simp] theorem enterRun_done : s.enterRun.done = s.done := rfl
@[simp] theorem enterRun_err : s.enterRun.err = s.err := rfl
@[simp] theorem enterRun_ovf : s.enterRun.ovf = s.ovf := rfl
@[simp] theorem enterRun_wign : s.enterRun.wign = s.wign := rfl
@[simp] theorem enterRun_errKind : s.enterRun.errKind = s.errKind := rfl
@[simp] theorem enterRun_errIndex : s.enterRun.errIndex = s.errIndex := rfl
@[simp] theorem enterRun_regs : s.enterRun.regs = s.regs := rfl
@[simp] theorem enterRun_infoLen : s.enterRun.infoLen = s.infoLen := rfl
@[simp] theorem enterRun_fcs : s.enterRun.fcs = s.fcs := rfl
@[simp] theorem enterRun_frameLen : s.enterRun.frameLen = s.frameLen := rfl
@[simp] theorem enterRun_bitCount : s.enterRun.bitCount = s.bitCount := rfl
@[simp] theorem enterRun_outPos : s.enterRun.outPos = s.outPos := rfl
@[simp] theorem enterRun_coef : s.enterRun.coef = s.coef := rfl
@[simp] theorem enterRun_info : s.enterRun.info = s.info := rfl
@[simp] theorem enterRun_frame : s.enterRun.frame = s.frame := rfl
@[simp] theorem enterRun_pipe : s.enterRun.pipe = s.pipe := rfl
@[simp] theorem enterRun_draw : s.enterRun.draw = s.draw := rfl
@[simp] theorem enterRun_inbox : s.enterRun.inbox = s.inbox := rfl
@[simp] theorem enterRun_hostGot : s.enterRun.hostGot = s.hostGot := rfl
@[simp] theorem enterRun_sinkGot : s.enterRun.sinkGot = s.sinkGot := rfl

/-! ### loadFrame -/

@[simp] theorem loadFrame_mode : s.loadFrame.mode = s.mode := rfl
@[simp] theorem loadFrame_ctrl : s.loadFrame.ctrl = s.ctrl := rfl
@[simp] theorem loadFrame_done : s.loadFrame.done = false := rfl
@[simp] theorem loadFrame_err : s.loadFrame.err = s.err := rfl
@[simp] theorem loadFrame_ovf : s.loadFrame.ovf = s.ovf := rfl
@[simp] theorem loadFrame_wign : s.loadFrame.wign = s.wign := rfl
@[simp] theorem loadFrame_errKind : s.loadFrame.errKind = s.errKind := rfl
@[simp] theorem loadFrame_errIndex : s.loadFrame.errIndex = s.errIndex := rfl
@[simp] theorem loadFrame_regs : s.loadFrame.regs = s.regs := rfl
@[simp] theorem loadFrame_infoLen : s.loadFrame.infoLen = s.infoLen := rfl
@[simp] theorem loadFrame_fcs : s.loadFrame.fcs = fcs16 s.frameBody := rfl
@[simp] theorem loadFrame_frameLen : s.loadFrame.frameLen = BitVec.ofNat 9 s.buildFrame.length := rfl
@[simp] theorem loadFrame_bitCount : s.loadFrame.bitCount = BitVec.ofNat 32 (lineBits s.regs.npre s.regs.npost s.buildFrame).length := rfl
@[simp] theorem loadFrame_outPos : s.loadFrame.outPos = 0#32 := rfl
@[simp] theorem loadFrame_coef : s.loadFrame.coef = s.coef := rfl
@[simp] theorem loadFrame_info : s.loadFrame.info = s.info := rfl
@[simp] theorem loadFrame_frame : s.loadFrame.frame = Memory.writeAll 0 s.buildFrame s.frame := rfl
@[simp] theorem loadFrame_pipe : s.loadFrame.pipe = s.regs.startPipe := rfl
@[simp] theorem loadFrame_draw : s.loadFrame.draw = s.draw := rfl
@[simp] theorem loadFrame_inbox : s.loadFrame.inbox = s.inbox := rfl
@[simp] theorem loadFrame_hostGot : s.loadFrame.hostGot = s.hostGot := rfl
@[simp] theorem loadFrame_sinkGot : s.loadFrame.sinkGot = s.sinkGot := rfl

/-! ### raise -/

@[simp] theorem raise_mode (k : ErrorKind) (i : Byte) : (s.raise k i).mode = s.mode := by
  unfold State.raise; split <;> rfl
@[simp] theorem raise_ctrl (k : ErrorKind) (i : Byte) : (s.raise k i).ctrl = s.ctrl := by
  unfold State.raise; split <;> rfl
@[simp] theorem raise_done (k : ErrorKind) (i : Byte) : (s.raise k i).done = s.done := by
  unfold State.raise; split <;> rfl
@[simp] theorem raise_wign (k : ErrorKind) (i : Byte) : (s.raise k i).wign = s.wign := by
  unfold State.raise; split <;> rfl
@[simp] theorem raise_regs (k : ErrorKind) (i : Byte) : (s.raise k i).regs = s.regs := by
  unfold State.raise; split <;> rfl
@[simp] theorem raise_infoLen (k : ErrorKind) (i : Byte) : (s.raise k i).infoLen = s.infoLen := by
  unfold State.raise; split <;> rfl
@[simp] theorem raise_fcs (k : ErrorKind) (i : Byte) : (s.raise k i).fcs = s.fcs := by
  unfold State.raise; split <;> rfl
@[simp] theorem raise_frameLen (k : ErrorKind) (i : Byte) : (s.raise k i).frameLen = s.frameLen := by
  unfold State.raise; split <;> rfl
@[simp] theorem raise_bitCount (k : ErrorKind) (i : Byte) : (s.raise k i).bitCount = s.bitCount := by
  unfold State.raise; split <;> rfl
@[simp] theorem raise_outPos (k : ErrorKind) (i : Byte) : (s.raise k i).outPos = s.outPos := by
  unfold State.raise; split <;> rfl
@[simp] theorem raise_coef (k : ErrorKind) (i : Byte) : (s.raise k i).coef = s.coef := by
  unfold State.raise; split <;> rfl
@[simp] theorem raise_info (k : ErrorKind) (i : Byte) : (s.raise k i).info = s.info := by
  unfold State.raise; split <;> rfl
@[simp] theorem raise_frame (k : ErrorKind) (i : Byte) : (s.raise k i).frame = s.frame := by
  unfold State.raise; split <;> rfl
@[simp] theorem raise_pipe (k : ErrorKind) (i : Byte) : (s.raise k i).pipe = s.pipe := by
  unfold State.raise; split <;> rfl
@[simp] theorem raise_draw (k : ErrorKind) (i : Byte) : (s.raise k i).draw = s.draw := by
  unfold State.raise; split <;> rfl
@[simp] theorem raise_inbox (k : ErrorKind) (i : Byte) : (s.raise k i).inbox = s.inbox := by
  unfold State.raise; split <;> rfl
@[simp] theorem raise_hostGot (k : ErrorKind) (i : Byte) : (s.raise k i).hostGot = s.hostGot := by
  unfold State.raise; split <;> rfl
@[simp] theorem raise_sinkGot (k : ErrorKind) (i : Byte) : (s.raise k i).sinkGot = s.sinkGot := by
  unfold State.raise; split <;> rfl
@[simp] theorem raise_err (k : ErrorKind) (i : Byte) : (s.raise k i).err = true := by
  unfold State.raise; split <;> simp_all
@[simp] theorem raise_ovf (k : ErrorKind) (i : Byte) : (s.raise k i).ovf = (s.ovf || s.err) := by
  unfold State.raise; split <;> simp_all
@[simp] theorem raise_errKind (k : ErrorKind) (i : Byte) : (s.raise k i).errKind = if s.err then s.errKind else k := by
  unfold State.raise; split <;> simp_all
@[simp] theorem raise_errIndex (k : ErrorKind) (i : Byte) : (s.raise k i).errIndex = if s.err then s.errIndex else i := by
  unfold State.raise; split <;> simp_all


@[simp] theorem setInbox_setInbox (a b : List Event) : (s.setInbox a).setInbox b = s.setInbox b := rfl
@[simp] theorem setInbox_self : s.setInbox s.inbox = s := rfl

end Sys2Proof.Machine.State
end

