-- ==== Sys2Proof/Laws/Memory.lean ====
section
/-! SUPPORT. The laws of the internal memories: a read after a write, and the canonical form every operation keeps. -/

namespace Sys2Proof.Machine

variable {w : Nat}

theorem Memory.lookup_write_same (i : Nat) (v : BitVec w) (m : Memory w) :
    Memory.lookup i (Memory.write i v m) = some v := by
  induction m with
  | nil => simp [Memory.write, Memory.lookup]
  | cons c rest ih =>
    obtain ⟨j, u⟩ := c
    by_cases h1 : i < j
    · simp [Memory.write, h1, Memory.lookup]
    · by_cases h2 : i = j <;> simp [Memory.write, h1, h2, Memory.lookup, ih]

theorem Memory.lookup_write_other {i k : Nat} (hk : k ≠ i) (v : BitVec w) (m : Memory w) :
    Memory.lookup k (Memory.write i v m) = Memory.lookup k m := by
  induction m with
  | nil => simp [Memory.write, Memory.lookup, hk]
  | cons c rest ih =>
    obtain ⟨j, u⟩ := c
    by_cases h1 : i < j
    · simp [Memory.write, h1, Memory.lookup, hk]
    · by_cases h2 : i = j
      · subst h2; simp [Memory.write, Memory.lookup, hk]
      · simp [Memory.write, h1, h2, Memory.lookup, ih]

@[simp] theorem Memory.read_write_same (d : Nat → BitVec w) (i : Nat) (v : BitVec w) (m : Memory w) :
    Memory.read d (Memory.write i v m) i = v := by
  simp [Memory.read, Memory.lookup_write_same]

theorem Memory.read_write_other (d : Nat → BitVec w) {i k : Nat} (hk : k ≠ i) (v : BitVec w) (m : Memory w) :
    Memory.read d (Memory.write i v m) k = Memory.read d m k := by
  simp [Memory.read, Memory.lookup_write_other hk]

theorem Memory.wfFrom_mono {bound lo lo' : Nat} (h : lo' ≤ lo) {m : Memory w} (hm : Memory.wfFrom bound lo m = true) :
    Memory.wfFrom bound lo' m = true := by
  cases m with
  | nil => rfl
  | cons c rest =>
    obtain ⟨j, u⟩ := c
    simp [Memory.wfFrom] at hm ⊢
    exact ⟨⟨by omega, hm.1.2⟩, hm.2⟩

theorem Memory.wfFrom_write {bound lo i : Nat} (hlo : lo ≤ i) (hi : i < bound) (v : BitVec w) {m : Memory w}
    (hm : Memory.wfFrom bound lo m = true) : Memory.wfFrom bound lo (Memory.write i v m) = true := by
  induction m generalizing lo with
  | nil => simp [Memory.write, Memory.wfFrom, hlo, hi]
  | cons c rest ih =>
    obtain ⟨j, u⟩ := c
    simp only [Memory.wfFrom, Bool.and_eq_true, decide_eq_true_eq] at hm
    obtain ⟨⟨h1, h2⟩, h3⟩ := hm
    rcases Nat.lt_trichotomy i j with h | h | h
    · simp [Memory.write, h, Memory.wfFrom, hlo, hi, h2, h3, Nat.succ_le_of_lt h]
    · subst h; simp [Memory.write, Memory.wfFrom, hlo, hi, h3]
    · simp [Memory.write, Nat.lt_asymm h, Nat.ne_of_gt h, Memory.wfFrom, h1, h2, ih (Nat.succ_le_of_lt h) h3]

/-- A write below the bound keeps the canonical form. -/
theorem Memory.wf_write {bound i : Nat} (hi : i < bound) (v : BitVec w) {m : Memory w} (hm : Memory.wf bound m = true) :
    Memory.wf bound (Memory.write i v m) = true :=
  Memory.wfFrom_write (Nat.zero_le i) hi v hm

theorem Memory.wf_writeAll {bound : Nat} (vs : List (BitVec w)) (i : Nat) (hi : i + vs.length ≤ bound) {m : Memory w}
    (hm : Memory.wf bound m = true) : Memory.wf bound (Memory.writeAll i vs m) = true := by
  induction vs generalizing i m with
  | nil => exact hm
  | cons v vs ih =>
    simp only [List.length_cons] at hi
    exact ih (i + 1) (by omega) (Memory.wf_write (by omega) v hm)

theorem Memory.read_writeAll_before (d : Nat → BitVec w) (vs : List (BitVec w)) {i k : Nat} (hk : k < i) (m : Memory w) :
    Memory.read d (Memory.writeAll i vs m) k = Memory.read d m k := by
  induction vs generalizing i m with
  | nil => rfl
  | cons v vs ih => rw [Memory.writeAll, ih (by omega), Memory.read_write_other d (by omega)]

/-- After writing consecutive words, each reads back. -/
theorem Memory.read_writeAll (d : Nat → BitVec w) (vs : List (BitVec w)) (i k : Nat) (hk : k < vs.length) (m : Memory w) :
    Memory.read d (Memory.writeAll i vs m) (i + k) = vs[k] := by
  induction vs generalizing i k m with
  | nil => simp at hk
  | cons v vs ih =>
    cases k with
    | zero => rw [Memory.writeAll, Memory.read_writeAll_before d vs (by omega)]; simp
    | succ k =>
      have h := ih (i + 1) k (by simpa using hk) (Memory.write i v m)
      rw [show i + 1 + k = i + (k + 1) by omega] at h
      simpa [Memory.writeAll] using h

/-- Writing consecutive words leaves every word outside them alone. -/
theorem Memory.read_writeAll_after (d : Nat → BitVec w) (vs : List (BitVec w)) {i k : Nat} (hk : i + vs.length ≤ k) (m : Memory w) :
    Memory.read d (Memory.writeAll i vs m) k = Memory.read d m k := by
  induction vs generalizing i m with
  | nil => rfl
  | cons v vs ih =>
    simp only [List.length_cons] at hk
    rw [Memory.writeAll, ih (by omega), Memory.read_write_other d (by omega)]

end Sys2Proof.Machine
end

