-- ==== Sys2Proof/Laws/Frame.lean ====
section
/-! SUPPORT. The frame builder: lengths, and the frame START writes reads back from FRAME. -/

namespace Sys2Proof.Machine

theorem addrBytes_length (e : AddrEntry) (last : Bool) : (addrBytes e last).length = 7 := by
  simp [addrBytes, AddrEntry.chars]

theorem Regs.addrField_length (r : Regs) : r.addrField.length = 7 * r.nAddr := by
  simp [Regs.addrField, List.length_flatMap, addrBytes_length, Nat.mul_comm]

theorem State.infoBytes_length (s : State) : s.infoBytes.length = s.infoLen.toNat := by
  simp [State.infoBytes]

/-- FLEN of R73 40_frame_builder.md. -/
theorem State.buildFrame_length (s : State) :
    s.buildFrame.length = 7 * s.regs.nAddr + 2 + s.infoLen.toNat + 2 := by
  simp [State.buildFrame, withFcs, State.frameBody, Regs.addrField_length, State.infoBytes_length]
  omega

theorem byteBits_length (b : Byte) : (byteBits b).length = 8 := by simp [byteBits]

theorem lineOrder_length (bytes : List Byte) : (lineOrder bytes).length = 8 * bytes.length := by
  simp [lineOrder, List.length_flatMap, byteBits_length, Nat.mul_comm]

/-- The checks that pass when START is accepted (R130 60_exceptions.md). -/
theorem State.check_none {s : State} (h : s.check = none) :
    s.regs.configOk = true ∧ (s.regs.entry 0).ok = true ∧ (s.regs.entry 1).ok = true ∧ s.regs.ndigi ≤ Config.maxDigi
      ∧ s.regs.badEntry 2 s.regs.ndigi = none ∧ s.infoLen.toNat ≤ s.regs.infoMax.toNat := by
  unfold State.check at h
  split at h <;> try contradiction
  split at h <;> try contradiction
  split at h <;> try contradiction
  split at h <;> try contradiction
  split at h <;> try contradiction
  split at h <;> try contradiction
  rename_i h1 h2 h3 h4 _ h5 h6
  exact ⟨by simpa using h1, by simpa using h2, by simpa using h3, by omega, h5, by omega⟩

/-- The legal configurations of R130 60_exceptions.md, one by one. -/
theorem Regs.configOk_spec {r : Regs} (h : r.configOk = true) :
    r.npre ≠ 0 ∧ r.npost ≠ 0 ∧ r.format.isSome = true ∧ r.l.toNat ≠ 0 ∧ r.l.toNat ≤ Config.lMax ∧ r.tpp.toNat ≠ 0
      ∧ r.l.toNat * r.tpp.toNat ≤ Config.coefDepth ∧ r.infoMax.toNat ≤ Config.infoCap := by
  simpa [Regs.configOk, and_assoc] using h

/-- An accepted START builds a frame that fits FRAME (R73 40_frame_builder.md). -/
theorem State.buildFrame_fits {s : State} (h : s.check = none) : s.buildFrame.length ≤ Config.frameMax := by
  obtain ⟨hc, -, -, hn, -, hi⟩ := State.check_none h
  have := (Regs.configOk_spec hc).2.2.2.2.2.2.2
  simp only [State.buildFrame_length, Regs.nAddr, Config.frameMax, Config.infoCap, Config.maxDigi] at *
  omega

/-- The frame START builds is the frame FRAME holds after it (R37 10_state.md). -/
theorem State.loadFrame_frameBytes {s : State} (h : s.check = none) : s.loadFrame.frameBytes = s.buildFrame := by
  have hf := State.buildFrame_fits h
  simp only [Config.frameMax] at hf
  have hl : s.loadFrame.frameLen.toNat = s.buildFrame.length := by simp; omega
  apply List.ext_getElem
  · simp only [State.frameBytes, List.length_map, List.length_range, hl]
  · intro i h1 h2
    have := Memory.read_writeAll (Config.framePowerOn s.draw) s.buildFrame 0 i h2 s.frame
    simpa [State.frameBytes, State.frameByte] using this

end Sys2Proof.Machine
end

