-- ==== Sys2Proof/Laws/Pipeline.lean ====
section
/-! SUPPORT. The streaming pipeline against the whole-sequence stages: each stage's next value is the head of what its registers stand for, and
the registers after it stand for the tail. -/

namespace Sys2Proof.Machine

/-! ### The start values -/

theorem flagTail_flags (n : Nat) : flagTail (8 * n) = flags n := by
  induction n with
  | zero => rfl
  | succ n ih =>
    have h : ∀ k, k < 9 → 0 < k → flagBitAt (8 * n + k) = flagBitAt k := by
      intro k _ _
      simp [flagBitAt, Nat.add_mod]
    rw [Nat.mul_succ]
    simp only [flagTail]
    rw [ih, h 8 (by omega) (by omega), h 7 (by omega) (by omega), h 6 (by omega) (by omega), h 5 (by omega) (by omega),
      h 4 (by omega) (by omega), h 3 (by omega) (by omega), h 2 (by omega) (by omega), h 1 (by omega) (by omega)]
    simp only [flags, List.replicate_succ, List.flatten_cons]
    rfl

theorem Regs.startPipe_restLine (r : Regs) (frame : List Byte) :
    r.startPipe.restLine (lineOrder frame) = lineBits r.npre r.npost frame := by
  simp [Pipe.restLine, Regs.startPipe, flagTail_flags, lineBits, dataBits]

theorem Regs.startPipe_restAudio (r : Regs) (frame : List Byte) :
    r.startPipe.restAudio r.pol (lineOrder frame)
      = afsk r.pol 0#8 (nrzi r.nrziInit (lineBits r.npre r.npost frame)) := by
  rw [Pipe.restAudio, Regs.startPipe_restLine]
  simp [Regs.startPipe, tone, tonePhase]

/-- At START the pipeline stands for OUTSEQ (R38 10_state.md, R123 46_commands.md). -/
theorem State.restBytes_start (s : State) : s.restBytes s.regs.startPipe = s.outseq := by
  have ha := Regs.startPipe_restAudio s.regs s.frameBytes
  have hi : s.regs.startPipe.restInput s.regs s.frameBits = s.firInput := by
    rw [Pipe.restInput, State.frameBits, ha]; rfl
  unfold State.restBytes State.outseq
  rcases s.regs.format with _ | fmt
  · rfl
  · cases fmt with
    | pcmF32 => simp only [State.frameBits, ha]; rfl
    | _ => simp only [hi]; rfl

/-! ### One turn of each stage -/

/-- The serializer's next bit is the head of the line that is left, and keeps the ones counter in range. -/
theorem Pipe.nextBit_some {frame : List Bool} {p q : Pipe} {b : Bool} (h : p.nextBit frame = some (b, q)) (hc : p.ones.toNat < 5) :
    p.restLine frame = b :: q.restLine frame ∧ q.ones.toNat < 5 ∧ q.lvl = p.lvl ∧ q.phi = p.phi ∧ q.psi = p.psi
      ∧ q.delay = p.delay ∧ q.flushLeft = p.flushLeft ∧ q.symLeft = p.symLeft := by
  unfold Pipe.nextBit at h
  split at h
  · rename_i hp
    obtain ⟨n, hn⟩ := Nat.exists_eq_succ_of_ne_zero (Nat.ne_of_gt hp)
    simp only [Option.some.injEq, Prod.mk.injEq] at h
    obtain ⟨rfl, rfl⟩ := h
    simp [Pipe.restLine, hn, flagTail, hc]
  · rename_i hp
    have hp0 : p.preLeft = 0 := by omega
    split at h
    · rename_i hd
      simp only [Option.some.injEq, Prod.mk.injEq] at h
      obtain ⟨rfl, rfl⟩ := h
      simp [Pipe.restLine, hp0, flagTail, hd, hc]
    · rename_i hd
      split at h
      · rename_i hb
        obtain ⟨hlt, hget⟩ := List.getElem?_eq_some_iff.1 hb
        have hdrop : frame.drop p.bitPos = true :: frame.drop (p.bitPos + 1) := by
          rw [List.drop_eq_getElem_cons hlt, hget]
        split at h
        · rename_i h5
          simp only [Option.some.injEq, Prod.mk.injEq] at h
          obtain ⟨rfl, rfl⟩ := h
          simp [Pipe.restLine, hp0, flagTail, hd, hdrop, stuff, h5]
        · rename_i h5
          simp only [Option.some.injEq, Prod.mk.injEq] at h
          obtain ⟨rfl, rfl⟩ := h
          have h6 : (p.ones + 1#3).toNat = p.ones.toNat + 1 := by simp; omega
          simp only [Pipe.restLine, hp0, flagTail, hdrop, stuff, h5, h6, if_true, if_false]
          simp [hd]
          omega
      · rename_i hb
        obtain ⟨hlt, hget⟩ := List.getElem?_eq_some_iff.1 hb
        have hdrop : frame.drop p.bitPos = false :: frame.drop (p.bitPos + 1) := by
          rw [List.drop_eq_getElem_cons hlt, hget]
        simp only [Option.some.injEq, Prod.mk.injEq] at h
        obtain ⟨rfl, rfl⟩ := h
        simp [Pipe.restLine, hp0, flagTail, hd, hdrop, stuff]
      · rename_i hb
        have hdrop : frame.drop p.bitPos = [] := List.drop_eq_nil_of_le (by simpa using hb)
        split at h
        · rename_i hq
          obtain ⟨n, hn⟩ := Nat.exists_eq_succ_of_ne_zero (Nat.ne_of_gt hq)
          simp only [Option.some.injEq, Prod.mk.injEq] at h
          obtain ⟨rfl, rfl⟩ := h
          simp [Pipe.restLine, hp0, flagTail, hd, hdrop, stuff, hn, hc]
        · contradiction

theorem Pipe.nextBit_none {frame : List Bool} {p : Pipe} (h : p.nextBit frame = none) : p.restLine frame = [] := by
  unfold Pipe.nextBit at h
  split at h
  · contradiction
  · rename_i hp
    split at h
    · contradiction
    · rename_i hd
      split at h
      · split at h <;> contradiction
      · contradiction
      · rename_i hb
        split at h
        · contradiction
        · rename_i hq
          have hdrop : frame.drop p.bitPos = [] := List.drop_eq_nil_of_le (by simpa using hb)
          simp [Pipe.restLine, Nat.eq_zero_of_not_pos hp, Nat.eq_zero_of_not_pos hq, flagTail, hd, hdrop, stuff]

theorem ddsNext_lt (inc : Nat) (phi : BitVec 8) : (ddsNext inc phi).toNat < Config.ddsMod := by
  have : (phi.toNat + inc) % 240 < 240 := Nat.mod_lt _ (by omega)
  simp [ddsNext, Config.ddsMod]; omega

/-- The next audio sample is the head of the audio that is left. -/
theorem Pipe.nextAudio_some {pol : Bool} {frame : List Bool} {p q : Pipe} {x : Half}
    (h : p.nextAudio pol frame = some (x, q)) (hc : p.ones.toNat < 5) :
    p.restAudio pol frame = x :: q.restAudio pol frame ∧ q.ones.toNat < 5 ∧ q.phi.toNat < Config.ddsMod ∧ q.psi = p.psi
      ∧ q.delay = p.delay ∧ q.flushLeft = p.flushLeft := by
  unfold Pipe.nextAudio at h
  split at h
  · rename_i hs
    obtain ⟨n, hn⟩ := Nat.exists_eq_succ_of_ne_zero (Nat.ne_of_gt hs)
    simp only [Option.some.injEq, Prod.mk.injEq] at h
    obtain ⟨rfl, rfl⟩ := h
    refine ⟨?_, hc, ddsNext_lt _ _, rfl, rfl, rfl⟩
    simp [Pipe.restAudio, hn, tone, tonePhase, Pipe.restLine]
  · rename_i hs
    have hs0 : p.symLeft = 0 := by omega
    split at h
    · rename_i q1 hsym
      unfold Pipe.nextSymbol at hsym
      split at hsym
      · rename_i b q2 hbit
        obtain ⟨hline, ho, hl, hphi, hpsi, hde, hfl, -⟩ := Pipe.nextBit_some hbit hc
        simp only [Option.some.injEq] at hsym
        subst hsym
        simp only [Option.some.injEq, Prod.mk.injEq] at h
        obtain ⟨rfl, rfl⟩ := h
        refine ⟨?_, ho, ddsNext_lt _ _, hpsi, hde, hfl⟩
        have hline' : ∀ (lvl : Bool) (ph : BitVec 8) (n : Nat),
            ({ q2 with lvl := lvl, phi := ph, symLeft := n } : Pipe).restLine frame = q2.restLine frame := by
          intros; rfl
        simp [Pipe.restAudio, hs0, tone, tonePhase, hline, nrzi, afsk, hl, hphi, Config.sps, hline']
      · contradiction
    · contradiction

theorem Pipe.nextAudio_none {pol : Bool} {frame : List Bool} {p : Pipe} (h : p.nextAudio pol frame = none) :
    p.restAudio pol frame = [] := by
  unfold Pipe.nextAudio at h
  split at h
  · contradiction
  · rename_i hs
    split at h
    · contradiction
    · rename_i hsym
      unfold Pipe.nextSymbol at hsym
      split at hsym
      · contradiction
      · rename_i hbit
        simp [Pipe.restAudio, Nat.eq_zero_of_not_pos hs, tone, Pipe.nextBit_none hbit, nrzi, afsk]

/-- The next interpolator input is the head of the inputs that are left. -/
theorem Pipe.nextInput_some {r : Regs} {frame : List Bool} {p q : Pipe} {x : Cplx}
    (h : p.nextInput r frame = some (x, q)) (hc : p.ones.toNat < 5) (hphi : p.phi.toNat < Config.ddsMod) :
    p.restInput r frame = x :: q.restInput r frame ∧ q.ones.toNat < 5 ∧ q.phi.toNat < Config.ddsMod ∧ q.delay = p.delay := by
  unfold Pipe.nextInput at h
  split at h
  · rename_i a q1 ha
    obtain ⟨hrest, ho, hph, hpsi, hde, hfl⟩ := Pipe.nextAudio_some ha hc
    simp only [Option.some.injEq, Prod.mk.injEq] at h
    obtain ⟨rfl, rfl⟩ := h
    refine ⟨?_, ho, hph, hde⟩
    rw [Pipe.restInput, hrest, ← hpsi, ← hfl]
    rfl
  · rename_i ha
    have hnil := Pipe.nextAudio_none ha
    split at h
    · contradiction
    · rename_i hf
      simp only [Option.some.injEq, Prod.mk.injEq] at h
      obtain ⟨rfl, rfl⟩ := h
      refine ⟨?_, hc, hphi, rfl⟩
      have hpos : p.flushLeft.toNat ≠ 0 := fun h0 => hf (BitVec.eq_of_toNat_eq (by simpa using h0))
      obtain ⟨n, hn⟩ := Nat.exists_eq_succ_of_ne_zero hpos
      have hsub : (p.flushLeft - 1#16).toNat = n := by
        have := p.flushLeft.isLt
        simp only [BitVec.toNat_sub, BitVec.toNat_ofNat]; omega
      have : ∀ f : BitVec 16, ({ p with flushLeft := f } : Pipe).restAudio r.pol frame = p.restAudio r.pol frame := by
        intros; rfl
      simp only [Pipe.restInput, this, hnil, fm, hsub, hn, List.replicate_succ, List.nil_append]

theorem Pipe.nextInput_none {r : Regs} {frame : List Bool} {p : Pipe} (h : p.nextInput r frame = none) :
    p.restInput r frame = [] := by
  unfold Pipe.nextInput at h
  split at h
  · contradiction
  · rename_i ha
    split at h
    · rename_i hf
      simp [Pipe.restInput, Pipe.nextAudio_none ha, fm, hf]
    · contradiction

theorem f32_ne_nil (y : Int) : f32 y ≠ [] := by simp [f32]

theorem branches_bytes_ne_nil {h : Nat → Int} {l : Nat} (hl : l ≠ 0) (d : List Cplx) {fmt : Format} (hf : fmt ≠ .pcmF32) :
    (branches h l d).flatMap (iqBytes fmt) ≠ [] := by
  obtain ⟨n, rfl⟩ := Nat.exists_eq_succ_of_ne_zero hl
  simp only [branches, List.range_succ_eq_map, List.map_cons, List.flatMap_cons]
  cases fmt <;> simp_all [iqBytes, f32]

/-- ONE TURN OF THE PIPELINE (R123 46_commands.md): its bytes are the next bytes of what is left. -/
theorem State.nextBytes_some {s : State} {p q : Pipe} {bytes : List Byte} (h : s.nextBytes p = some (bytes, q))
    (hcfg : s.regs.configOk = true) (hc : p.ones.toNat < 5) (hphi : p.phi.toNat < Config.ddsMod)
    (hd : p.delay.length = s.regs.tpp.toNat) :
    s.restBytes p = bytes ++ s.restBytes q ∧ bytes ≠ [] ∧ q.ones.toNat < 5 ∧ q.phi.toNat < Config.ddsMod
      ∧ q.delay.length = s.regs.tpp.toNat := by
  have hl := (Regs.configOk_spec hcfg).2.2.2.1
  unfold State.nextBytes at h
  split at h
  · contradiction
  · rename_i hfmt
    split at h
    · rename_i x q1 ha
      obtain ⟨hrest, ho, hph, -, hde, -⟩ := Pipe.nextAudio_some ha hc
      simp only [Option.some.injEq, Prod.mk.injEq] at h
      obtain ⟨rfl, rfl⟩ := h
      exact ⟨by simp [State.restBytes, hfmt, hrest], f32_ne_nil _, ho, hph, by rw [hde, hd]⟩
    · contradiction
  · rename_i fmt hne hfmt
    split at h
    · rename_i x q1 ha
      obtain ⟨hrest, ho, hph, hde⟩ := Pipe.nextInput_some ha hc hphi
      simp only [Option.some.injEq, Prod.mk.injEq] at h
      obtain ⟨rfl, rfl⟩ := h
      have hfm : fmt ≠ .pcmF32 := hne
      refine ⟨?_, branches_bytes_ne_nil hl _ hfm, ho, hph, ?_⟩
      · have : ∀ d : List Cplx, ({ q1 with delay := d } : Pipe).restInput s.regs s.frameBits = q1.restInput s.regs s.frameBits := by
          intros; rfl
        cases fmt <;> simp_all [State.restBytes, fir, List.flatMap_append]
      · simp [shiftIn, hde, hd]
    · contradiction

theorem State.nextBytes_none {s : State} {p : Pipe} (h : s.nextBytes p = none) : s.restBytes p = [] := by
  unfold State.nextBytes at h
  split at h
  · rename_i hfmt; simp [State.restBytes, hfmt]
  · rename_i hfmt
    split at h
    · contradiction
    · rename_i ha; simp [State.restBytes, hfmt, Pipe.nextAudio_none ha]
  · rename_i fmt hne hfmt
    split at h
    · contradiction
    · rename_i ha
      cases fmt <;> simp_all [State.restBytes, Pipe.nextInput_none ha, fir]

end Sys2Proof.Machine
end

