-- ==== Sys2Proof/Laws/Lengths.lean ====
section
/-! SUPPORT. The lengths of the stages' sequences (R80, R88, R96, R101, R111), and what a transmission's sequences depend on (R123 46_commands.md). -/

namespace Sys2Proof.Machine

theorem flags_length (n : Nat) : (flags n).length = 8 * n := by
  simp [flags, flagBits, byteBits, List.length_flatten, Nat.mul_comm]

theorem stuff_length_le (c : Nat) (bs : List Bool) : (stuff c bs).length ≤ 2 * bs.length := by
  induction bs generalizing c with
  | nil => simp [stuff]
  | cons b bs ih =>
    have h0 := ih 0
    have h1 := ih (c + 1)
    unfold stuff
    split
    · split <;> simp <;> omega
    · simp; omega

theorem nrzi_length (lvl : Bool) (bs : List Bool) : (nrzi lvl bs).length = bs.length := by
  induction bs generalizing lvl with
  | nil => rfl
  | cons b bs ih => simp [nrzi, ih]

theorem tone_length (inc n : Nat) (phi : BitVec 8) : (tone inc n phi).length = n := by
  induction n generalizing phi with
  | zero => rfl
  | succ n ih => simp [tone, ih]

theorem afsk_length (pol : Bool) (phi : BitVec 8) (syms : List Bool) :
    (afsk pol phi syms).length = Config.sps * syms.length := by
  induction syms generalizing phi with
  | nil => rfl
  | cons b bs ih => simp [afsk, ih, tone_length, Nat.mul_succ, Nat.add_comm]

theorem fm_length (k : BitVec 16) (psi : BitVec 32) (xs : List Half) : (fm k psi xs).length = xs.length := by
  induction xs generalizing psi with
  | nil => rfl
  | cons x xs ih => simp [fm, ih]

theorem branches_length (h : Nat → Int) (l : Nat) (d : List Cplx) : (branches h l d).length = l := by simp [branches]

theorem fir_length (h : Nat → Int) (l tpp : Nat) (d xs : List Cplx) : (fir h l tpp d xs).length = l * xs.length := by
  induction xs generalizing d with
  | nil => rfl
  | cons x xs ih => simp [fir, ih, branches_length, Nat.mul_succ, Nat.add_comm]

theorem f32_length (y : Int) : (f32 y).length = 4 := by simp [f32]

theorem State.line_length_le (s : State) : s.line.length ≤ 12256 := by
  have h1 := stuff_length_le 0 (lineOrder s.frameBytes)
  have h2 : s.frameBytes.length < 512 := by simp [State.frameBytes]; omega
  have h3 : s.regs.npre < 256 := by unfold Regs.npre; omega
  have h4 : s.regs.npost < 256 := by unfold Regs.npost; omega
  simp only [State.line, lineBits, dataBits, List.length_append, flags_length, lineOrder_length] at *
  omega

theorem length_flatMap_const {α β : Type} (f : α → List β) (n : Nat) (h : ∀ a, (f a).length = n) (xs : List α) :
    (xs.flatMap f).length = n * xs.length := by
  induction xs with
  | nil => rfl
  | cons x xs ih => simp [h, ih, Nat.mul_succ, Nat.add_comm]

/-- The k-th element of a concatenation of pieces of one length, by piece and place in it. -/
theorem getElem?_flatMap_const {α β : Type} (f : α → List β) (n : Nat) (h : ∀ a, (f a).length = n) {xs : List α} {m j : Nat} {x : α}
    (hx : xs[m]? = some x) (hj : j < n) : (xs.flatMap f)[n * m + j]? = (f x)[j]? := by
  induction xs generalizing m with
  | nil => simp at hx
  | cons a xs ih =>
    cases m with
    | zero =>
      have ha : a = x := by simpa using hx
      simp [ha, List.getElem?_append, h, hj]
    | succ m =>
      rw [List.flatMap_cons, Nat.mul_succ, show n * m + n + j = n + (n * m + j) by omega,
        List.getElem?_append_right (by rw [h]; omega), h, Nat.add_sub_cancel_left]
      exact ih (by simpa using hx)

/-- OUTPUT LENGTH (R111 45_sample_sink.md), when BIT_COUNT holds the line length. -/
theorem State.outseq_length {s : State} (h : s.bitCount.toNat = s.line.length) : s.outseq.length = s.outLen := by
  have ha : s.audio.length = Config.sps * s.bitCount.toNat := by
    simp [State.audio, afsk_length, State.symbols, nrzi_length, h]
  have hy : s.firOutput.length = s.regs.l.toNat * (Config.sps * s.bitCount.toNat + s.regs.flush.toNat) := by
    simp [State.firOutput, fir_length, State.firInput, State.baseband, fm_length, ha]
  unfold State.outseq State.outLen
  cases hf : s.regs.format with
  | none => simp
  | some fmt =>
    cases fmt with
    | iqS8 => simp only [length_flatMap_const (iqBytes .iqS8) 2 (by simp [iqBytes]), hy, Nat.mul_assoc]
    | iqF32 => simp only [length_flatMap_const (iqBytes .iqF32) 8 (by simp [iqBytes, f32_length]), hy, Nat.mul_assoc]
    | pcmF32 => simp only [length_flatMap_const (fun x : Half => f32 x.toInt) 4 (fun x => f32_length _), ha]

/-- OUTPOS never wraps (R111 45_sample_sink.md). -/
theorem State.outLen_lt {s : State} (hc : s.regs.configOk = true) (h : s.bitCount.toNat = s.line.length) : s.outLen < 2 ^ 32 := by
  have hl := (Regs.configOk_spec hc).2.2.2.2.1
  have hb := State.line_length_le s
  have hfl : s.regs.flush.toNat < 65536 := s.regs.flush.isLt
  simp only [Config.lMax] at hl
  rw [← h] at hb
  have key : ∀ a b : Nat, a ≤ 64 → b ≤ 600000 → a * b ≤ 64 * 600000 := fun a b h1 h2 => Nat.mul_le_mul h1 h2
  have := key s.regs.l.toNat (Config.sps * s.bitCount.toNat + s.regs.flush.toNat) hl (by simp only [Config.sps]; omega)
  unfold State.outLen
  split
  · rw [Nat.mul_assoc]; omega
  · rw [Nat.mul_assoc]; omega
  · simp only [Config.sps]; omega
  · omega

/-- What the sequences of a transmission depend on: the locked-class registers, FRAME, COEF and the power-on draw. -/
structure State.SameStream (s t : State) : Prop where
  regs     : t.regs = s.regs
  frame    : t.frame = s.frame
  frameLen : t.frameLen = s.frameLen
  coef     : t.coef = s.coef
  draw     : t.draw = s.draw

theorem State.SameStream.line {s t : State} (h : s.SameStream t) : t.line = s.line := by
  obtain ⟨h1, h2, h3, h4, h5⟩ := h
  cases s; cases t; simp only at h1 h2 h3 h4 h5; subst h1 h2 h3 h4 h5; rfl

theorem State.SameStream.outseq {s t : State} (h : s.SameStream t) : t.outseq = s.outseq := by
  obtain ⟨h1, h2, h3, h4, h5⟩ := h
  cases s; cases t; simp only at h1 h2 h3 h4 h5; subst h1 h2 h3 h4 h5; rfl

theorem State.SameStream.restBytes {s t : State} (h : s.SameStream t) (p : Pipe) : t.restBytes p = s.restBytes p := by
  obtain ⟨h1, h2, h3, h4, h5⟩ := h
  cases s; cases t; simp only at h1 h2 h3 h4 h5; subst h1 h2 h3 h4 h5; rfl

/-- What RUN needs is unchanged by what leaves the stream, its position and the sink alone. -/
theorem State.RunOk.congr {s t : State} (hr : s.RunOk) (h : s.SameStream t) (hb : t.bitCount = s.bitCount)
    (ho : t.outPos = s.outPos) (hp : t.pipe = s.pipe) (hg : t.sinkGot = s.sinkGot) (hd : s.done = false → t.done = false) :
    t.RunOk where
  config := by rw [h.regs]; exact hr.config
  notDone := hd hr.notDone
  bitCount := by rw [hb, h.line]; exact hr.bitCount
  inside := by rw [ho, h.outseq]; exact hr.inside
  delay := by rw [hp, h.regs]; exact hr.delay
  toCome := by rw [hp, ho, h.restBytes, h.outseq]; exact hr.toCome
  delivered := by rw [ho, hg, h.outseq]; exact hr.delivered

end Sys2Proof.Machine
end

