-- ==== Sys2Proof/Laws/PerInstr.lean ====
section
/-! SUPPORT. The per-instruction statement: the word of a command selects the command's row of the opcode map (R63 30_encoding.md). -/

namespace Sys2Proof.Laws.OpcodeRow

/-- The encoding of the command matches its own row. -/
def Statement (i : Instr) : Prop := (opcodeRow i).selects (encode i) = true

theorem nop : Statement .nop := by unfold Statement; decide

theorem clear : Statement .clear := by unfold Statement; decide

theorem pushInfo (b : Byte) : Statement (.pushInfo b) := by unfold Statement; revert b; decide +kernel

theorem start : Statement .start := by unfold Statement; decide

theorem softReset : Statement .softReset := by unfold Statement; decide

end Sys2Proof.Laws.OpcodeRow
end

