-- ==== Sys2Proof/Laws/Run.lean ====
section
/-! SUPPORT. What a sink acceptance and an accepted START do to a transmission: the port is kept filled, and the invariant of RUN holds. -/

namespace Sys2Proof.Machine

/-- The bytes a transmission still has to give: those waiting, then those the pipeline registers stand for. -/
theorem State.takeByte_some {s : State} (hcfg : s.regs.configOk = true) (hones : s.pipe.ones.toNat < 5)
    (hphi : s.pipe.phi.toNat < Config.ddsMod)
    (hd : s.pipe.delay.length = s.regs.tpp.toNat) {b : Byte} {more : List Byte}
    (h : s.pipe.buf ++ s.restBytes s.pipe = b :: more) :
    ∃ q, s.takeByte = some (b, q) ∧ q.buf ++ s.restBytes q = more ∧ q.ones.toNat < 5 ∧ q.phi.toNat < Config.ddsMod
      ∧ q.delay.length = s.regs.tpp.toNat := by
  have hbuf : ∀ (p : Pipe) (l : List Byte), s.restBytes { p with buf := l } = s.restBytes p := by
    intro p l; unfold State.restBytes; split <;> rfl
  cases hb : s.pipe.buf with
  | cons c rest =>
    rw [hb, List.cons_append, List.cons.injEq] at h
    obtain ⟨rfl, h⟩ := h
    exact ⟨{ s.pipe with buf := rest }, by simp [State.takeByte, hb], by rw [hbuf]; exact h, hones, hphi, hd⟩
  | nil =>
    rw [hb, List.nil_append] at h
    cases hn : s.nextBytes s.pipe with
    | none => rw [State.nextBytes_none hn] at h; contradiction
    | some bq =>
      obtain ⟨bytes, q⟩ := bq
      obtain ⟨hrest, hne, ho, hp, hdl⟩ := State.nextBytes_some hn hcfg hones hphi hd
      obtain ⟨c, rest, rfl⟩ := List.exists_cons_of_ne_nil hne
      rw [hrest, List.cons_append, List.cons.injEq] at h
      obtain ⟨rfl, h⟩ := h
      exact ⟨{ q with buf := rest }, by simp [State.takeByte, hb, hn], by rw [hbuf]; exact h, ho, hp, hdl⟩

/-- A SINK ACCEPTANCE IN RUN (R124 46_commands.md): the byte at the port is OUTSEQ[OUTPOS]; the last one completes the run, any other leaves the
invariant of RUN. -/
theorem State.moveByte_spec {s : State} (hr : s.RegOk) (h : s.RunOk) :
    ∃ b q, s.takeByte = some (b, q) ∧ s.outseq[s.outPos.toNat]? = some b ∧ (s.outPos + 1#32).toNat = s.outPos.toNat + 1
      ∧ (s.moveByte b q).RegOk
      ∧ ((s.outPos.toNat + 1 = s.outseq.length ∧ (s.moveByte b q).afterMove = (s.moveByte b q).complete)
        ∨ (s.outPos.toNat + 1 < s.outseq.length ∧ (s.moveByte b q).afterMove = s.moveByte b q ∧ (s.moveByte b q).RunOk))
      ∧ ((b :: s.sinkGot).take (s.outPos.toNat + 1)).reverse = s.outseq.take (s.outPos.toNat + 1) := by
  obtain ⟨hcfg, hdone, hbc, hin, hdl, hcome, hgot⟩ := h
  have hlen := State.outseq_length hbc
  have hlt := State.outLen_lt hcfg hbc
  have hpos : (s.outPos + 1#32).toNat = s.outPos.toNat + 1 := by
    simp only [BitVec.toNat_add, BitVec.toNat_ofNat]; omega
  rw [List.drop_eq_getElem_cons hin] at hcome
  obtain ⟨q, htake, hrest, ho, hp, hdq⟩ := State.takeByte_some hcfg hr.2.1 hr.2.2.1 hdl hcome
  have hget : s.outseq[s.outPos.toNat]? = some s.outseq[s.outPos.toNat] := List.getElem?_eq_getElem hin
  have hss : s.SameStream (s.moveByte s.outseq[s.outPos.toNat] q) := ⟨rfl, rfl, rfl, rfl, rfl⟩
  have hol : (s.moveByte s.outseq[s.outPos.toNat] q).outLen = s.outLen := rfl
  have hgot' : ((s.outseq[s.outPos.toNat] :: s.sinkGot).take (s.outPos.toNat + 1)).reverse = s.outseq.take (s.outPos.toNat + 1) := by
    rw [List.take_succ_cons, List.reverse_cons, hgot, List.take_add_one, hget]; rfl
  refine ⟨_, q, htake, hget, hpos, ⟨hr.1, ho, hp, hr.2.2.2⟩, ?_, hgot'⟩
  by_cases hend : s.outPos.toNat + 1 = s.outseq.length
  · exact .inl ⟨hend, by simp [State.afterMove, hpos, hol, ← hlen, hend]⟩
  · refine .inr ⟨by omega, by simp [State.afterMove, hpos, hol, ← hlen, hend], ?_⟩
    exact
      { config := hcfg
        notDone := hdone
        bitCount := by rw [hss.line]; exact hbc
        inside := by rw [hss.outseq, State.moveByte_outPos, hpos]; omega
        delay := hdq
        toCome := by rw [hss.restBytes, hss.outseq, State.moveByte_outPos, hpos]; exact hrest
        delivered := by rw [hss.outseq, State.moveByte_outPos, hpos]; exact hgot' }

/-- OUTSEQ is never empty (R111 45_sample_sink.md). -/
theorem State.outLen_pos {s : State} (hc : s.regs.configOk = true) (h : s.bitCount.toNat = s.line.length) : 0 < s.outLen := by
  obtain ⟨hn, -, hf, hl, -⟩ := Regs.configOk_spec hc
  have hb : 0 < s.bitCount.toNat := by
    rw [h]; simp only [State.line, lineBits, List.length_append, flags_length]; omega
  obtain ⟨fmt, hfmt⟩ := Option.isSome_iff_exists.1 hf
  have h1 : 0 < s.regs.l.toNat := Nat.pos_of_ne_zero hl
  unfold State.outLen
  rw [hfmt]
  cases fmt <;> simp only [Config.sps] <;> positivity

/-- The line length START writes fits BIT_COUNT (R80 41_serializer_nrzi.md). -/
theorem State.loadFrame_bitCount_eq {s : State} (h : s.check = none) :
    s.loadFrame.bitCount.toNat = s.loadFrame.line.length := by
  have hl : s.loadFrame.line = lineBits s.regs.npre s.regs.npost s.buildFrame := by
    simp [State.line, State.loadFrame_frameBytes h]
  have hb := State.line_length_le s.loadFrame
  rw [hl] at hb ⊢
  simp only [State.loadFrame_bitCount, BitVec.toNat_ofNat]
  omega

/-- AN ACCEPTED START (R121 46_commands.md) enters RUN with its invariant. -/
theorem State.enterRun_runOk {s : State} (hr : s.RegOk) (h : s.check = none) : s.loadFrame.enterRun.RunOk ∧ s.loadFrame.enterRun.RegOk := by
  have hcfg := (State.check_none h).1
  have hss : s.loadFrame.SameStream s.loadFrame.enterRun := ⟨rfl, rfl, rfl, rfl, rfl⟩
  have hbc : s.loadFrame.enterRun.bitCount.toNat = s.loadFrame.enterRun.line.length := by
    rw [hss.line]; exact State.loadFrame_bitCount_eq h
  have hlen := State.outseq_length hbc
  have hpos := State.outLen_pos (s := s.loadFrame.enterRun) hcfg hbc
  have h0 : s.loadFrame.enterRun.outPos.toNat = 0 := rfl
  refine ⟨?_, ⟨hr.1, Nat.zero_lt_succ 4, Nat.zero_lt_succ 239, hr.2.2.2⟩⟩
  exact
    { config := hcfg
      notDone := rfl
      bitCount := hbc
      inside := by rw [h0, hlen]; exact hpos
      delay := by simp [Regs.startPipe, Regs.emptyDelay]
      toCome := by rw [h0]; exact State.restBytes_start s.loadFrame.enterRun
      delivered := by rw [h0]; rfl }

end Sys2Proof.Machine
end

