-- ==== Sys2Proof/Laws/Step.lean ====
section
/-! SUPPORT. What a step, a command and a host write can do, said once. -/

namespace Sys2Proof.Machine

/-- The six things a host write to a register other than CMD can do (R116 46_commands.md). -/
theorem State.hostWrite_cases (s : State) (addr : Byte) (v : Word) :
    s.hostWrite addr v = s
      ∨ (regAt addr = some .ctrl ∧ s.hostWrite addr v = s.setCtrl (v.setWidth 2))
      ∨ (regAt addr = some .status ∧ s.hostWrite addr v = s.ackStatus v)
      ∨ (s.mode ≠ .idle ∧ s.hostWrite addr v = s.setWign)
      ∨ (s.mode = .idle ∧ regAt addr = some .coefData ∧ s.hostWrite addr v = s.pushCoef (v.setWidth 16))
      ∨ (s.mode = .idle ∧ ∃ r, regAt addr = some r ∧ r.lockedClass = true ∧ r ≠ .coefData
          ∧ s.hostWrite addr v = s.setRegs (s.regs.store v r)) := by
  unfold State.hostWrite
  cases hreg : regAt addr with
  | none => exact .inl rfl
  | some r =>
    simp only [State.writeReg]
    split
    · rename_i hk
      split
      · rename_i hl; exact .inr (.inr (.inr (.inl ⟨by simpa [State.locked] using hl, rfl⟩)))
      · rename_i hl
        have hm : s.mode = .idle := by simpa [State.locked] using hl
        split
        · rename_i hr; subst hr; exact .inr (.inr (.inr (.inr (.inl ⟨hm, rfl, rfl⟩))))
        · rename_i hr; exact .inr (.inr (.inr (.inr (.inr ⟨hm, r, rfl, hk, hr, rfl⟩))))
    · split
      · exact .inr (.inl ⟨rfl, rfl⟩)
      · exact .inr (.inr (.inl ⟨rfl, rfl⟩))
      · exact .inl rfl

/-- The outcomes of START in IDLE (R121 46_commands.md). -/
theorem State.startRun_cases (s : State) :
    (∃ k i, s.check = some (k, i) ∧ s.startRun = s.raise k i)
      ∨ (s.check = none ∧ monitorOk s.buildFrame = true ∧ s.startRun = s.loadFrame.enterRun)
      ∨ (s.check = none ∧ monitorOk s.buildFrame = false ∧ s.startRun = s.loadFrame.enterFault) := by
  unfold State.startRun
  cases hc : s.check with
  | some ki => exact .inl ⟨ki.1, ki.2, rfl, rfl⟩
  | none => cases hm : monitorOk s.buildFrame <;> simp

/-- The outcomes of PUSH_INFO in IDLE (R120 46_commands.md). -/
theorem State.push_cases (s : State) (b : Byte) :
    (min s.regs.infoMax.toNat Config.infoCap ≤ s.infoLen.toNat ∧ s.push b = s.raise .oversizedInfo 0xFF#8)
      ∨ (s.infoLen.toNat < min s.regs.infoMax.toNat Config.infoCap ∧ s.push b = s.pushInfoByte b) := by
  unfold State.push
  split
  · exact .inl ⟨‹_›, rfl⟩
  · exact .inr ⟨by omega, rfl⟩

/-- What a command does (R117 to R122 46_commands.md): it always answers a next state, one of these. -/
theorem exec_cases (i : Instr) (s : State) :
    (i = .nop ∧ exec i s = .next s)
      ∨ (i = .softReset ∧ exec i s = .next s.resetCore)
      ∨ (i ≠ .nop ∧ i ≠ .softReset ∧ s.mode ≠ .idle ∧ exec i s = .next s.setWign)
      ∨ (i = .clear ∧ s.mode = .idle ∧ exec i s = .next s.clearInfo)
      ∨ (∃ b, i = .pushInfo b ∧ s.mode = .idle ∧ exec i s = .next (s.push b))
      ∨ (i = .start ∧ s.mode = .idle ∧ exec i s = .next s.startRun) := by
  have hl : s.locked = true ↔ s.mode ≠ .idle := by simp [State.locked]
  cases i <;> by_cases hm : s.mode = .idle <;> simp [exec, execNop, execClear, execPushInfo, execStart, execSoftReset, hl, hm]

/-- A sink-ready event (R112 45_sample_sink.md, R124 46_commands.md). -/
theorem sinkReady_next {s t : State} (h : sinkReady s = .next t) :
    (s.mode ≠ .run ∧ t = s) ∨ (s.mode = .run ∧ ∃ b q, s.takeByte = some (b, q) ∧ t = (s.moveByte b q).afterMove) := by
  unfold sinkReady at h
  split at h
  · rename_i hv
    split at h
    · contradiction
    · rename_i b q hb
      exact .inr ⟨by simpa [State.outValid] using hv, b, q, hb, by simpa using h.symm⟩
  · rename_i hv
    exact .inl ⟨by simpa [State.outValid] using hv, by simpa using h.symm⟩

/-- WHAT A STEP CAN DO (R114 46_commands.md). -/
theorem step_cases {s t : State} (h : step s = .next t) :
    (s.inbox = [] ∧ t = s)
      ∨ ∃ e rest, s.inbox = e :: rest
        ∧ ((∃ w i, commandWord e = some w ∧ decode w = .ok i ∧ exec i (s.setInbox rest) = .next t)
          ∨ (∃ w d, commandWord e = some w ∧ decode w = .error d ∧ t = illegalCommand w (s.setInbox rest))
          ∨ (∃ addr, e = .hostRead addr ∧ t = (s.setInbox rest).giveHost ((s.setInbox rest).hostRead addr))
          ∨ (∃ addr v, e = .hostWrite addr v ∧ commandWord e = none ∧ t = (s.setInbox rest).hostWrite addr v)
          ∨ (e = .sinkReady ∧ sinkReady (s.setInbox rest) = .next t)
          ∨ (e = .sinkError ∧ t = sinkError (s.setInbox rest))
          ∨ (e = .hwReset ∧ t = (s.setInbox rest).resetCore)) := by
  unfold step at h
  split at h
  · exact .inl ⟨‹_›, by simpa using h.symm⟩
  · rename_i e rest hin
    refine .inr ⟨e, rest, hin, ?_⟩
    split at h
    · rename_i w hw
      split at h
      · rename_i i hd; exact .inl ⟨w, i, hw, hd, h⟩
      · rename_i d hd; exact .inr (.inl ⟨w, d, hw, hd, by simpa using h.symm⟩)
    · rename_i hw
      cases e with
      | hostRead addr => exact .inr (.inr (.inl ⟨addr, rfl, by simpa [applyEvent] using h.symm⟩))
      | hostWrite addr v => exact .inr (.inr (.inr (.inl ⟨addr, v, rfl, hw, by simpa [applyEvent] using h.symm⟩)))
      | sinkReady => exact .inr (.inr (.inr (.inr (.inl ⟨rfl, h⟩))))
      | sinkError => exact .inr (.inr (.inr (.inr (.inr (.inl ⟨rfl, by simpa [applyEvent] using h.symm⟩)))))
      | hwReset => exact .inr (.inr (.inr (.inr (.inr (.inr ⟨rfl, by simpa [applyEvent] using h.symm⟩)))))

end Sys2Proof.Machine
end

