-- ==== Sys2Proof/Laws/Tones.lean ====
section
/-! SUPPORT. What the FM modulator emits at a phase, said in integers. -/

namespace Sys2Proof.Machine

/-- The table index of a phase given as an integer: bits 31:22 of it modulo 2^32 (R92 43_fm_modulator.md). -/
theorem fmIndex_ofInt (x : Int) : fmIndex (BitVec.ofInt 32 x) = (x % 2 ^ 32).toNat / 2 ^ 22 := by
  have h : ∀ b : BitVec 32, fmIndex b = b.toNat / 2 ^ 22 := by
    intro b
    simp only [fmIndex, BitVec.extractLsb'_toNat, Nat.shiftRight_eq_div_pow]
    omega
  rw [h, BitVec.toNat_ofInt]; rfl

/-- Every entry of SIN1024 is an s16 (R93 43_fm_modulator.md). -/
theorem sin1024_fits : ∀ j : Fin 1024, (BitVec.ofInt 16 (sin1024 j.val)).toInt = sin1024 j.val := by decide +kernel

/-- The baseband sample at a phase, as table entries (R92 43_fm_modulator.md). -/
theorem fmOut_ofInt (x : Int) :
    (fmOut (BitVec.ofInt 32 x)).re.toInt = sin1024 (((x % 2 ^ 32).toNat / 2 ^ 22 + 256) % 1024)
      ∧ (fmOut (BitVec.ofInt 32 x)).im.toInt = sin1024 ((x % 2 ^ 32).toNat / 2 ^ 22) := by
  have hi : (x % 2 ^ 32).toNat / 2 ^ 22 < 1024 := by omega
  simp only [fmOut, fmIndex_ofInt]
  exact ⟨sin1024_fits ⟨_, Nat.mod_lt _ (by norm_num)⟩, sin1024_fits ⟨_, hi⟩⟩

end Sys2Proof.Machine
end

