-- ==== Sys2Proof/Tests/Slice0.lean ====
section
/-! SUPPORT. Tests with expected results from spec/, the smoke test of WellFormed, and one witness for each statement that has hypotheses. -/

namespace Sys2Proof.Tests

open Sys2Proof Sys2Proof.Machine

-- One theorem after the other: kernel evaluations that wait for each other each hold a thread.
set_option Elab.async false

/-! ## States -/

/-- IDLE with "N0CALL" as source, one flag at each end, PCM_F32, and "Hello" in INFO: program P1 of 95_test_vectors.md before START. -/
def smoke : State :=
  { State.reset with
    regs := { Regs.reset with cfg0 := 0x090101#24, addr := Regs.reset.addr.set 1 ⟨0x4143304E#32, 0x004C4C#24⟩ }
    info := [(0, 0x48#8), (1, 0x65#8), (2, 0x6C#8), (3, 0x6C#8), (4, 0x6F#8)]
    infoLen := 5#9 }

/-- The smoke state with other locked-class registers. -/
def smokeWith (r : Regs) : State := { smoke with regs := r }

/-- The smoke transmission just started. -/
def running : State := smoke.loadFrame.enterRun

/-- A PCM_F32 transmission with its last byte at the port. -/
def atLastByte (s : State) : State :=
  { s with
    outPos := BitVec.ofNat 32 (s.outseq.length - 1)
    sinkGot := (s.outseq.take (s.outseq.length - 1)).reverse
    pipe := { s.regs.startPipe with
      preLeft := 0, postLeft := 0, bitPos := s.frameBits.length, buf := s.outseq.drop (s.outseq.length - 1) } }

/-- Mode FAULT, which only a state put there by hand can have. -/
def faulted : State := { smoke with mode := .fault }

/-- A state whose next event is `e`. -/
def before (s : State) (e : Event) : State := s.setInbox [e]

/-- The state after a command. -/
def after (i : Instr) (s : State) : Option State :=
  match exec i s with
  | .next t => some t
  | _ => none

/-! ## Decoding, from the encodings of R63 30_encoding.md written out bit by bit -/

theorem test_decode_nop : decode 0b00000000000000000000000000000000#32 = .ok .nop := by decide

theorem test_decode_clear : decode 0b00000000000000000000000000000001#32 = .ok .clear := by decide

theorem test_decode_pushInfo : decode 0b00000000000000000100100000000010#32 = .ok (.pushInfo 0x48#8) := by decide

theorem test_decode_start : decode 0b00000000000000000000000000000011#32 = .ok .start := by decide

theorem test_decode_softReset : decode 0b00000000000000000000000000000100#32 = .ok .softReset := by decide

/-- V-CMD: illegal words, each with the INDEX it raises. -/
theorem test_decode_illegal :
    decode 0x00000100#32 = .error (.immNotZero 0#8) ∧ decode 0x00010000#32 = .error (.zeroNotZero 0#8)
      ∧ decode 0x0001FF02#32 = .error (.zeroNotZero 2#8) ∧ decode 0x00000005#32 = .error (.undefinedOpcode 5#8) := by decide

theorem test_table_word : decodeTableWord 32 0xFF02 = some (.pushInfo 0xFF#8) ∧ decodeTableWord 32 5 = none := by decide

theorem test_encode : encode (.pushInfo 0x7E#8) = 0x00007E02#32 ∧ encode .softReset = 4#32 := by decide

/-! ## WellFormed: an ill-formed term for each check -/

theorem test_wf_opDefined : (CmdFields.mk 5#8 0#8 0#16).opDefined = false ∧ (CmdFields.mk 5#8 0#8 0#16).wf = false := by decide

theorem test_wf_immOk : (CmdFields.mk 3#8 1#8 0#16).immOk = false ∧ (CmdFields.mk 3#8 1#8 0#16).wf = false := by decide

theorem test_wf_zeroOk : (CmdFields.mk 2#8 9#8 1#16).zeroOk = false ∧ (CmdFields.mk 2#8 9#8 1#16).wf = false := by decide

theorem test_wf_accepts : (CmdFields.mk 2#8 9#8 0#16).wf = true ∧ (CmdFields.mk 4#8 0#8 0#16).wf = true := by decide

/-! ## Commands, at most two tests each -/

/-- R118 46_commands.md. -/
theorem test_nop : exec .nop running = .next running := rfl

/-- R119 46_commands.md, its example. -/
theorem test_clear : after .clear smoke = some { smoke with infoLen := 0#9 } := by decide +kernel

/-- R120 46_commands.md, its example. -/
theorem test_pushInfo_first :
    after (.pushInfo 0x48#8) State.reset = some { State.reset with info := [(0, 0x48#8)], infoLen := 1#9 } := by decide +kernel

/-- R120: with INFO_MAX = 0 every push raises OversizedInfo, code 3. -/
theorem test_pushInfo_full :
    after (.pushInfo 0x48#8) (smokeWith { smoke.regs with infoMax := 0#9 })
      = some { smokeWith { smoke.regs with infoMax := 0#9 } with err := true, errKind := .oversizedInfo, errIndex := 0xFF#8 } := by
  decide +kernel

/-- P1 of 95_test_vectors.md: FCS, FRAME_LEN and BIT_COUNT. -/
theorem test_start_smoke : running.fcs = 0x386F#16 ∧ running.frameLen = 23#9 ∧ running.bitCount = 200#32 := by decide +kernel

/-- P3: a lower-case source is InvalidCallsign(1): ERRINFO 0x0101. -/
theorem test_start_lower_case :
    (after .start (smokeWith { smoke.regs with addr := smoke.regs.addr.set 1 ⟨0x6163306E#32, 0x006C6C#24⟩ })).map
        (fun t => (t.mode, t.err, t.errInfoWord, t.bitCount))
      = some (.idle, true, 0x0101#32, 0#32) := by decide +kernel

/-- R122: in RUN it gives IDLE, OUT_COUNT 0 and STATUS 0. -/
theorem test_softReset : running.resetCore.mode = .idle ∧ running.resetCore.outPos = 0#32 ∧ running.resetCore.statusWord = 0#32 := by
  decide +kernel

/-! ## Registers and stages -/

/-- V-REG: what is read back after a write of all ones, and COEF_DATA at the end of the RAM. -/
theorem test_registers :
    (smoke.hostWrite 0x18#8 0xFFFFFFFF#32).hostRead 0x1B#8 = 0x00FFFFFF#32
      ∧ (smoke.hostWrite 0x1C#8 0xFFFFFFFF#32).hostRead 0x1C#8 = 0xFFFFFF7F#32
      ∧ (smoke.hostWrite 0x9C#8 0xFFFFFFFF#32).hostRead 0x9C#8 = 0x00FFFFFF#32
      ∧ ((smoke.hostWrite 0x3C#8 4095#32).hostWrite 0x40#8 1#32).regs.coefPtr = 0#12 := by decide +kernel

/-- L1-2: the first 14 bytes of the smoke frame and its last two. -/
theorem test_frame :
    smoke.buildFrame.take 14
        = [0x82#8, 0xA0#8, 0xA4#8, 0xA6#8, 0x40#8, 0x40#8, 0x60#8, 0x9C#8, 0x60#8, 0x86#8, 0x82#8, 0x98#8, 0x98#8, 0x61#8]
      ∧ smoke.buildFrame.drop 21 = [0x6F#8, 0x38#8] := by decide +kernel

/-- V-STUFF, FF and 1F; V-NRZI, 01111110 from level 1. -/
theorem test_line :
    dataBits [0xFF#8] = [true, true, true, true, true, false, true, true, true]
      ∧ dataBits [0x1F#8] = [true, true, true, true, true, false, false, false, false]
      ∧ nrzi true flagBits = [false, false, false, false, false, false, false, true] := by decide +kernel

/-- V-DDS, the first samples of a space symbol; V-FM, one sample. -/
theorem test_tones :
    ((afsk false 0#8 [false]).take 4).map BitVec.toInt = [9306, 17846, 24916, 29934]
      ∧ fmNext 13653#16 0#32 9306#16 = 0x0792B3E2#32 ∧ fmOut 0x0792B3E2#32 = ⟨32213#16, 5998#16⟩ := by decide +kernel

/-- V-FIR-1, by its impulse taps: [8192, 16384, 8192, 0], L = 2, TPP = 2. -/
theorem test_fir :
    fir (fun t => [8192, 16384, 8192, 0].getD t 0) 2 2 [⟨0#16, 0#16⟩, ⟨0#16, 0#16⟩]
        [⟨16384#16, 0#16⟩, ⟨16384#16, 0#16⟩, ⟨0x8000#16, 32767#16⟩, ⟨0#16, 0#16⟩]
      = [(8192, 0), (16384, 0), (16384, 0), (16384, 0), (-8192, 16384), (-32768, 32767), (-16384, 16384), (0, 0)] := by decide +kernel

/-- V-S8 and V-F32. -/
theorem test_samples :
    s8 (-258) = 0x00#8 ∧ s8 (-259) = 0xFF#8 ∧ s8 33027 = 0x7F#8 ∧ s8 (-33285) = 0x80#8
      ∧ f32 9306 = [0x00#8, 0x68#8, 0x91#8, 0x3E#8] ∧ f32 (-16711170) = [0x02#8, 0xFE#8, 0xFE#8, 0xC3#8] := by decide +kernel

/-! ## What the witnesses share -/

theorem smoke_check : smoke.check = none := by decide +kernel

theorem smoke_regOk : smoke.RegOk := by unfold State.RegOk; decide +kernel

theorem smoke_inv : smoke.Inv where
  mem := by unfold State.MemOk; decide +kernel
  reg := smoke_regOk
  run := fun h => absurd h (by decide +kernel)

theorem running_runOk : running.RunOk := (State.enterRun_runOk smoke_regOk smoke_check).1

theorem running_inv : running.Inv where
  mem := by unfold State.MemOk; decide +kernel
  reg := (State.enterRun_runOk smoke_regOk smoke_check).2
  run := fun _ => running_runOk

theorem running_length : running.outseq.length = 32000 := by
  rw [State.outseq_length running_runOk.bitCount]; decide +kernel

/-- The events in store are no part of the invariant. -/
theorem before_inv {s : State} (h : s.Inv) (es : List Event) : (s.setInbox es).Inv where
  mem := h.mem
  reg := h.reg
  run := fun hm => (h.run hm).congr ⟨rfl, rfl, rfl, rfl, rfl⟩ rfl rfl rfl rfl id

theorem atLastByte_pos (s : State) (h : s.outseq.length < 2 ^ 32) : (atLastByte s).outPos.toNat = s.outseq.length - 1 := by
  simp only [atLastByte, BitVec.toNat_ofNat]; omega

theorem atLastByte_restBytes (s : State) (hp : s.regs.format = some .pcmF32) : (atLastByte s).restBytes (atLastByte s).pipe = [] := by
  have hf : (atLastByte s).regs.format = some .pcmF32 := hp
  have hb : (atLastByte s).frameBits = s.frameBits := rfl
  simp only [State.restBytes, hf, Pipe.restAudio, Pipe.restLine, hb]
  simp [atLastByte, Regs.startPipe, flagTail, stuff, tone, nrzi, afsk]

theorem atLastByte_inv (s : State) (h : s.Inv) (hm : s.mode = .run) (hp : s.regs.format = some .pcmF32) (hl : s.outseq.length < 2 ^ 32) :
    (atLastByte s).Inv where
  mem := h.mem
  reg := ⟨h.reg.1, Nat.zero_lt_succ 4, Nat.zero_lt_succ 239, h.reg.2.2.2⟩
  run := fun _ => by
    have hs : s.SameStream (atLastByte s) := ⟨rfl, rfl, rfl, rfl, rfl⟩
    have hr := h.run hm
    have hin := hr.inside
    exact
      { config := hr.config
        notDone := hr.notDone
        bitCount := by rw [hs.line]; exact hr.bitCount
        inside := by rw [atLastByte_pos s hl, hs.outseq]; omega
        delay := by simp [atLastByte, Regs.startPipe, Regs.emptyDelay]
        toCome := by rw [atLastByte_pos s hl, hs.outseq, atLastByte_restBytes s hp, List.append_nil]; rfl
        delivered := by
          have hg : (atLastByte s).sinkGot = (s.outseq.take (s.outseq.length - 1)).reverse := rfl
          rw [atLastByte_pos s hl, hs.outseq, hg, List.take_of_length_le (by simp), List.reverse_reverse] }

/-- The acceptance of the last byte leaves RUN. -/
theorem atLastByte_step (s : State) (h : (atLastByte s).Inv) (hm : s.mode = .run) (hl : (atLastByte s).outPos.toNat + 1 = s.outseq.length) :
    ∃ t, step (before (atLastByte s) .sinkReady) = .next t ∧ t.mode ≠ .run := by
  have hm' : (atLastByte s).mode = .run := hm
  have hs : s.SameStream (atLastByte s) := ⟨rfl, rfl, rfl, rfl, rfl⟩
  rw [← hs.outseq] at hl
  generalize atLastByte s = u at h hm' hl
  have hu := before_inv h []
  obtain ⟨b, q, htake, -, -, -, hcase, -⟩ := State.moveByte_spec hu.reg (hu.run hm')
  refine ⟨((u.setInbox []).moveByte b q).afterMove, ?_, ?_⟩
  · simp [step, before, commandWord, applyEvent, sinkReady, State.outValid, hm', State.setInbox] at htake ⊢
    rw [htake]
  · rcases hcase with ⟨-, h2⟩ | ⟨h1, -⟩
    · rw [h2]; simp
    · have h1 : u.outPos.toNat + 1 < u.outseq.length := h1
      omega

theorem running_mode : running.mode = .run := rfl

theorem lastByte_inv : (atLastByte running).Inv :=
  atLastByte_inv running running_inv running_mode (by decide +kernel) (by rw [running_length]; omega)

/-! ## Witnesses: for each statement with hypotheses, a concrete state and operands that meet them -/

theorem witness_StepRunsDecodedCommand :
    (before smoke (.hostWrite 0x10#8 3#32)).inbox = .hostWrite 0x10#8 3#32 :: [] ∧ (0x10#8 : Byte).toNat / 4 * 4 = 0x10
      ∧ (0x13#8 : Byte).toNat / 4 * 4 = 0x10 ∧ decode 3#32 = .ok .start := by decide +kernel

theorem witness_OpcodeMapSelectsCommand :
    opcodeRow (.pushInfo 0#8) ∈ opcodeMap ∧ 0xFF02#32 &&& (opcodeRow (.pushInfo 0#8)).mask = (opcodeRow (.pushInfo 0#8)).pattern
      ∧ decode 0xFF02#32 = .ok (.pushInfo 0xFF#8) := by decide +kernel

theorem witness_IllegalWordRaises :
    (before smoke (.hostWrite 0x10#8 5#32)).inbox = .hostWrite 0x10#8 5#32 :: [] ∧ (0x10#8 : Byte).toNat / 4 * 4 = 0x10
      ∧ ∀ r, r ∈ opcodeMap → 5#32 &&& r.mask ≠ r.pattern := by decide +kernel

/-- RaiseRecordsFirstError: a state without an error and one with an error. -/
theorem witness_RaiseRecordsFirstError : smoke.err = false ∧ (smoke.raise .invalidConfig 0xFF#8).err = true := by decide +kernel

/-- The next state of a step, if there is one. -/
def stepped (s : State) : Option State :=
  match step s with
  | .next t => some t
  | _ => none

theorem stepped_eq {s t : State} (h : stepped s = some t) : step s = .next t := by
  unfold stepped at h
  split at h
  · rename_i u hu; rw [hu]; simpa using h
  · contradiction

theorem witness_ErrInfoChangesOnlyWhenRecorded :
    step (before smoke (.hostWrite 0x10#8 5#32)) = .next (smoke.raise .illegalCommand 5#8)
      ∧ (smoke.raise .illegalCommand 5#8).errKind ≠ (before smoke (.hostWrite 0x10#8 5#32)).errKind :=
  ⟨stepped_eq (by decide +kernel), by decide +kernel⟩

/-- Two errors recorded, so ERR and OVF are set. -/
def twoErrors : State := (smoke.raise .invalidConfig 0xFF#8).raise .invalidConfig 0xFF#8

theorem witness_ErrorClearedOnlyByHostOrReset :
    step (before twoErrors (.hostWrite 0x0C#8 0x0C#32)) = .next (twoErrors.ackStatus 0x0C#32)
      ∧ ((before twoErrors (.hostWrite 0x0C#8 0x0C#32)).err = true ∧ (twoErrors.ackStatus 0x0C#32).err = false)
      ∧ ((before twoErrors (.hostWrite 0x0C#8 0x0C#32)).ovf = true ∧ (twoErrors.ackStatus 0x0C#32).ovf = false) :=
  ⟨stepped_eq (by decide +kernel), by decide +kernel, by decide +kernel⟩

/-- HostReadReturnsMap: an event for every byte offset, so for every clause. -/
theorem witness_HostReadReturnsMap : ∀ addr : Byte, (before smoke (.hostRead addr)).inbox = .hostRead addr :: [] := fun _ => rfl

/-- HostWriteStoresStoredBits: the first and last byte offset of each clause. -/
theorem witness_HostWriteStoresStoredBits :
    ∀ addr ∈ [0x00#8, 0x07#8, 0x08#8, 0x0B#8, 0x0C#8, 0x0F#8, 0x14#8, 0x18#8, 0x1C#8, 0x20#8, 0x24#8, 0x27#8, 0x28#8, 0x3B#8, 0x3C#8,
        0x40#8, 0x43#8, 0x44#8, 0x7F#8, 0x80#8, 0x84#8, 0xC8#8, 0xCF#8, 0xD0#8, 0xFF#8],
      (before smoke (.hostWrite addr 1#32)).inbox = .hostWrite addr 1#32 :: [] ∧ addr.toNat / 4 * 4 ≠ 0x10 := by decide +kernel

theorem witness_WrittenRegisterReadsBack :
    smoke.mode = .idle ∧ Reg.coefPtr ∈ [Reg.cfg0, .cfg1, .fmK, .infoMax, .coefPtr] ∧ (∃ e, Reg.addrLo 9 = .addrLo e)
      ∧ (∃ e, Reg.addrHi 0 = .addrHi e) ∧ Reg.status ≠ .coefPtr ∧ Reg.status ≠ .coefData := by decide +kernel

theorem witness_CoefDataWritesAndAdvances :
    (before smoke (.hostWrite 0x40#8 7#32)).inbox = .hostWrite 0x40#8 7#32 :: [] ∧ (before smoke (.hostWrite 0x40#8 7#32)).mode = .idle
      ∧ (before running (.hostWrite 0x40#8 7#32)).inbox = .hostWrite 0x40#8 7#32 :: [] ∧ (before running (.hostWrite 0x40#8 7#32)).mode ≠ .idle
      ∧ (before smoke (.hostRead 0x40#8)).inbox = .hostRead 0x40#8 :: [] := by decide +kernel

theorem witness_ClearZeroesInfoLen : smoke.mode = .idle := rfl

/-- PushInfoAppendsOrRejects: the last free place, and no free place. -/
theorem witness_PushInfoAppendsOrRejects :
    ({ smoke with infoLen := 255#9 } : State).infoLen.toNat < min smoke.regs.infoMax.toNat 256
      ∧ min smoke.regs.infoMax.toNat 256 ≤ ({ smoke with infoLen := 256#9 } : State).infoLen.toNat
      ∧ ({ smoke with infoLen := 255#9 } : State).mode = .idle := by decide +kernel

theorem witness_LockedCommandsOnlySetWign : running.mode ≠ .idle ∧ faulted.mode ≠ .idle := by decide +kernel

/-- The configuration condition of StartChecksInOrder. -/
abbrev badConfig (r : Regs) : Prop :=
  r.npre = 0 ∨ r.npost = 0 ∨ r.fmt = 3#2 ∨ r.l.toNat = 0 ∨ 64 < r.l.toNat ∨ r.tpp.toNat = 0
    ∨ 4096 < r.l.toNat * r.tpp.toNat ∨ 256 < r.infoMax.toNat

/-- The entry condition of StartChecksInOrder. -/
abbrev okEntry (r : Regs) (e : Nat) : Prop := (r.entry e).callOk = true ∧ (r.entry e).ssidOk = true

/-- "N0CALL" with an SSID. -/
def call (ssid : BitVec 8) : AddrEntry := ⟨0x4143304E#32, ssid.setWidth 24 <<< 16 ||| 0x004C4C#24⟩

/-- A configuration with NDIGI and entries 0, 1 and the rest given. -/
def path (ndigi : Nat) (a b : AddrEntry) (rest : Vector AddrEntry 8) : Regs :=
  { Regs.reset with cfg0 := BitVec.ofNat 24 (0x010104 + ndigi * 2 ^ 20), addr := #v[a, b] ++ rest }

/-- Each configuration check of R130 at the first value that fails it. -/
theorem witness_StartChecksInOrder_config :
    badConfig { Regs.reset with cfg0 := 0x010100#24 } ∧ badConfig { Regs.reset with cfg0 := 0x010004#24 }
      ∧ badConfig { Regs.reset with cfg0 := 0x0D0104#24 } ∧ badConfig { Regs.reset with l := 0#7 } ∧ badConfig { Regs.reset with l := 65#7 }
      ∧ badConfig { Regs.reset with tpp := 0#8 } ∧ badConfig { Regs.reset with l := 64#7, tpp := 65#8 }
      ∧ badConfig { Regs.reset with infoMax := 257#9 } ∧ (smokeWith Regs.reset).mode = .idle := by
  refine ⟨?_, ?_, ?_, ?_, ?_, ?_, ?_, ?_, ?_⟩ <;> decide +kernel

/-- Checks 2 to 4 of R130: a bad destination, a bad source, NDIGI = 9. -/
theorem witness_StartChecksInOrder_entries :
    (¬ badConfig (path 0 .blank (call 0#8) (.replicate 8 .blank)) ∧ ¬ okEntry (path 0 .blank (call 0#8) (.replicate 8 .blank)) 0)
      ∧ (¬ badConfig (path 0 (call 0#8) (call 16#8) (.replicate 8 .blank)) ∧ okEntry (path 0 (call 0#8) (call 16#8) (.replicate 8 .blank)) 0
        ∧ ¬ okEntry (path 0 (call 0#8) (call 16#8) (.replicate 8 .blank)) 1)
      ∧ (¬ badConfig (path 9 (call 0#8) (call 15#8) (.replicate 8 .blank)) ∧ okEntry (path 9 (call 0#8) (call 15#8) (.replicate 8 .blank)) 0
        ∧ okEntry (path 9 (call 0#8) (call 15#8) (.replicate 8 .blank)) 1 ∧ 8 < (path 9 (call 0#8) (call 15#8) (.replicate 8 .blank)).ndigi) := by
  decide +kernel

/-- Check 4 of R130: the last digipeater of a full path is the first that is not legal. -/
theorem witness_StartChecksInOrder_path :
    ∃ r : Regs, ¬ badConfig r ∧ okEntry r 0 ∧ okEntry r 1 ∧ r.ndigi ≤ 8 ∧ 2 ≤ 9 ∧ 9 ≤ 1 + r.ndigi
      ∧ (∀ j, 2 ≤ j → j < 9 → okEntry r j) ∧ ¬ okEntry r 9 := by
  refine ⟨path 8 (call 0#8) (call 1#8) ((Vector.replicate 8 (call 2#8)).set 7 .blank), ?_, ?_, ?_, ?_, ?_, ?_, ?_, ?_⟩
  case refine_7 => intro j h1 h2; interval_cases j <;> decide +kernel
  all_goals decide +kernel

/-- Checks 5 and none of R130: INFO_LEN above INFO_MAX, and equal to it. -/
theorem witness_StartChecksInOrder_info :
    ¬ badConfig smoke.regs ∧ okEntry smoke.regs 0 ∧ okEntry smoke.regs 1 ∧ smoke.regs.ndigi ≤ 8
      ∧ (∀ j, 2 ≤ j → j ≤ 1 + smoke.regs.ndigi → okEntry smoke.regs j)
      ∧ ({ smoke.regs with infoMax := 4#9 } : Regs).infoMax.toNat < smoke.infoLen.toNat
      ∧ smoke.infoLen.toNat ≤ ({ smoke.regs with infoMax := 5#9 } : Regs).infoMax.toNat := by
  refine ⟨?_, ?_, ?_, ?_, ?_, ?_, ?_⟩
  case refine_5 => intro j h1 h2; rw [show smoke.regs.ndigi = 0 by decide +kernel] at h2; omega
  all_goals decide +kernel

theorem witness_StartBuildsAndRuns : smoke.mode = .idle ∧ smoke.check = none := ⟨rfl, smoke_check⟩

theorem witness_ResetsGiveResetValues : (before running .hwReset).inbox = .hwReset :: [] := rfl

theorem witness_AddressBytesLayout : (call 15#8).ssidOk = true ∧ (call 16#8).ssidOk = false ∧ 5 < 6 := by decide +kernel

/-- LastBitOnExactlyOneAddress: the last byte of the last of ten addresses, and the first byte of the first. -/
theorem witness_LastBitOnExactlyOneAddress :
    9 < 2 + (path 8 (call 0#8) (call 1#8) (.replicate 8 (call 2#8))).ndigi ∧ 6 < 7 ∧ 0 < 2 + smoke.regs.ndigi ∧ 0 < 7 := by decide +kernel

/-- FlagPatternOnlyAtFlags: the first flag of a line shows both patterns. -/
theorem witness_FlagPatternOnlyAtFlags :
    ((lineBits 1 1 [0x00#8]).drop 1).take 6 = List.replicate 6 true
      ∧ ((lineBits 1 1 [0x00#8]).drop 0).take 8 = [false, true, true, true, true, true, true, false] := by decide +kernel

theorem witness_LineLengthFormula : 255 ≤ 255 ∧ (List.replicate 330 (0xFF#8 : Byte)).length ≤ 330 :=
  ⟨Nat.le_refl _, Nat.le_of_eq List.length_replicate⟩

theorem witness_NrziDecodeRecoversLine : 0 < flagBits.length ∧ 7 < flagBits.length := by decide +kernel

theorem witness_AudioSamplesBounded : (9306#16 : Half) ∈ afsk false 0#8 [false] := by decide +kernel

theorem witness_AudioStepsBounded : 78 + 1 < (afsk false 0#8 [true, false]).length := by decide +kernel

theorem witness_AudioPhaseIsRunningSum : 79 < 40 * [true, false].length ∧ 0 < 40 * [true, false].length := by decide

theorem witness_FmPhaseIsRunningSum : 1 < ([9306#16, 17846#16] : List Half).length := by decide

theorem witness_PolyphaseEqualsDirectForm : 0 < 2 ∧ 0 < 2 ∧ 3 < 2 * ([⟨1#16, 0#16⟩, ⟨2#16, 0#16⟩] : List Cplx).length := by decide

/-- UnitBranchSumsPassConstants: the taps of V-FIR-3, at the first output of the second input. -/
theorem witness_UnitBranchSumsPassConstants :
    0 < 2 ∧ 2 * (2 - 1) ≤ 2 ∧ 2 < 2 * 3
      ∧ ∀ p, p < 2 → sumTo (fun j => ([8192, 16384, 8192, 0] : List Int).getD (p + j * 2) 0) 2 = 2 ^ 14 := by
  refine ⟨by omega, by omega, by omega, ?_⟩
  intro p hp; interval_cases p <;> decide

/-- InterpolatorOutputFits: the case R102 44_fir_interpolator.md names. -/
theorem witness_InterpolatorOutputFits :
    (∀ t : Nat, -32768 ≤ (fun _ => -32768 : Nat → Int) t ∧ (fun _ => -32768 : Nat → Int) t ≤ 32767)
      ∧ (List.replicate 255 (⟨0x8001#16, 0x8001#16⟩ : Cplx)).length ≤ 255
      ∧ ∀ x, x ∈ List.replicate 255 (⟨0x8001#16, 0x8001#16⟩ : Cplx) → |x.re.toInt| ≤ 32767 ∧ |x.im.toInt| ≤ 32767 := by
  refine ⟨fun t => by simp, Nat.le_of_eq List.length_replicate, ?_⟩
  intro x hx
  rw [List.eq_of_mem_replicate hx]
  decide +kernel

theorem witness_SignedByteTruncatesAndClamps : |(-32767 : Int)| ≤ 32767 ∧ (32768 : Int) ≤ 32768 ∧ (-33027 : Int) ≤ -33027 := by decide

theorem witness_FloatEncodingIsExact : |(16777215 : Int)| < 2 ^ 24 ∧ |(0 : Int)| < 2 ^ 24 ∧ (-1 : Int) ≠ 0 ∧ |(-1 : Int)| < 2 ^ 24 := by decide

theorem witness_OutputLengthByFormat : smoke.mode = .idle ∧ smoke.check = none := ⟨rfl, smoke_check⟩

theorem witness_PcmOutputIgnoresFmAndFir : smoke.regs.fmt = 2#2 := by decide +kernel

/-- The smoke transmission with another CFG0. -/
def runningWith (c : BitVec 24) : State := { running with regs := { running.regs with cfg0 := c } }

/-- The interpolator has a first output. -/
theorem firOutput_first (c : BitVec 24) (s : State) (hs : s = runningWith c) : ∃ y, s.firOutput[0]? = some y := by
  have hl : 0 < s.firOutput.length := by
    have h1 : s.regs.l.toNat = 50 := by rw [hs]; rfl
    have h2 : 0 < s.line.length := by
      have : s.frameBytes.length = 23 := by
        rw [hs]; simp only [State.frameBytes, List.length_map, List.length_range]
        change running.frameLen.toNat = 23; decide +kernel
      simp only [State.line, lineBits, dataBits, List.length_append]
      have := stuff_length_le 0 (lineOrder s.frameBytes)
      have h3 : (stuff 0 (lineOrder s.frameBytes)).length = 0 → False := by
        intro h0
        have h4 : (lineOrder s.frameBytes).length = 184 := by rw [lineOrder_length]; omega
        cases h5 : lineOrder s.frameBytes with
        | nil => rw [h5] at h4; contradiction
        | cons b bs => rw [h5] at h0; simp only [stuff] at h0; split at h0 <;> (try split at h0) <;> simp at h0
      have := Nat.pos_of_ne_zero h3
      omega
    simp only [State.firOutput, fir_length, State.firInput, List.length_append, State.baseband, fm_length, State.audio, afsk_length,
      State.symbols, nrzi_length, h1, Config.sps]
    omega
  exact ⟨_, List.getElem?_eq_getElem hl⟩

/-- IqBytesInOrder: the smoke transmission in each IQ format has a first output. -/
theorem witness_IqBytesInOrder :
    ((runningWith 0x010101#24).regs.fmt = 0#2 ∧ ∃ y, (runningWith 0x010101#24).firOutput[0]? = some y)
      ∧ ((runningWith 0x050101#24).regs.fmt = 1#2 ∧ ∃ y, (runningWith 0x050101#24).firOutput[0]? = some y) :=
  ⟨⟨by decide +kernel, firOutput_first _ _ rfl⟩, ⟨by decide +kernel, firOutput_first _ _ rfl⟩⟩

theorem witness_AcceptMovesNextByte :
    (before running .sinkReady).Inv ∧ (before running .sinkReady).mode = .run ∧ (before running .sinkReady).inbox = .sinkReady :: [] :=
  ⟨before_inv running_inv _, rfl, rfl⟩

theorem witness_NoByteMovesOutsideRun :
    (before smoke .sinkReady).mode ≠ .run ∧ (before smoke .sinkReady).inbox = .sinkReady :: [] ∧ faulted.mode ≠ .run := by decide +kernel

theorem witness_SinkErrorAbortsRun :
    (before running .sinkError).inbox = .sinkError :: [] ∧ (before running .sinkError).mode = .run
      ∧ (before smoke .sinkError).inbox = .sinkError :: [] ∧ (before smoke .sinkError).mode ≠ .run := by
  refine ⟨rfl, rfl, rfl, by decide +kernel⟩

/-- The smoke transmission with as many sink acceptances in store as bytes are left. -/
def fullRun (s : State) : State := s.setInbox (List.replicate (s.outseq.length - s.outPos.toNat) .sinkReady)

theorem witness_RunDeliversOutseq (s : State) (hs : s = running) :
    (fullRun s).Inv ∧ (fullRun s).mode = .run
      ∧ (fullRun s).inbox = List.replicate ((fullRun s).outseq.length - (fullRun s).outPos.toNat) .sinkReady ++ [] := by
  have h : s.SameStream (fullRun s) := ⟨rfl, rfl, rfl, rfl, rfl⟩
  refine ⟨before_inv (hs ▸ running_inv) _, hs ▸ rfl, ?_⟩
  rw [h.outseq, List.append_nil]; rfl

theorem witness_StepKeepsInvariant : State.reset.Inv ∧ smoke.Inv ∧ step smoke = .next smoke := by
  refine ⟨⟨by unfold State.MemOk; decide, by unfold State.RegOk; decide, fun h => absurd h (by decide)⟩, smoke_inv, rfl⟩

theorem witness_InvariantNeverFaults : (before running .sinkReady).Inv ∧ smoke.Inv := ⟨before_inv running_inv _, smoke_inv⟩

theorem witness_FaultModeUnreachable : smoke.mode ≠ .fault ∧ running.mode ≠ .fault ∧ step smoke = .next smoke :=
  ⟨by decide +kernel, by decide +kernel, rfl⟩

theorem witness_FaultLeftOnlyByReset :
    faulted.mode = .fault ∧ step faulted = .next faulted ∧ step (before faulted .hwReset) = .next faulted.resetCore.clearInfo := by
  refine ⟨rfl, rfl, rfl⟩

/-- RunEndsInStatedWays: the last byte accepted, a sink error, and a soft reset. -/
theorem witness_RunEndsInStatedWays :
    ((before (atLastByte running) .sinkReady).Inv ∧ ∃ t, step (before (atLastByte running) .sinkReady) = .next t ∧ t.mode ≠ .run)
      ∧ ((before running .sinkError).Inv ∧ step (before running .sinkError) = .next (sinkError running) ∧ (sinkError running).mode ≠ .run)
      ∧ ((before running .hwReset).Inv ∧ step (before running .hwReset) = .next running.resetCore ∧ running.resetCore.mode ≠ .run) := by
  refine ⟨⟨before_inv lastByte_inv _, ?_⟩, ⟨before_inv running_inv _, rfl, ?_⟩, ⟨before_inv running_inv _, rfl, ?_⟩⟩
  · exact atLastByte_step running lastByte_inv running_mode
      (by rw [atLastByte_pos running (by rw [running_length]; omega), running_length])
  · change Mode.idle ≠ Mode.run; decide
  · change Mode.idle ≠ Mode.run; decide

theorem witness_OutseqFixedDuringRun :
    running.mode = .run
      ∧ step (before running (.hostWrite 0x18#8 0#32)) = .next running.setWign
      ∧ running.setWign.mode = .run := ⟨rfl, stepped_eq (by decide +kernel), rfl⟩

theorem witness_ResultRegistersChangeOnlyByCommands :
    (before running .sinkError).inbox = .sinkError :: [] ∧ commandWord .sinkError = none ∧ Event.sinkError ≠ .hwReset
      ∧ step (before running .sinkError) = .next (sinkError running) := ⟨rfl, rfl, by decide, rfl⟩

end Sys2Proof.Tests
end

section
/-! PROOFS. The statements about the state as a whole: the invariant, ERRINFO, register read-back, COEF_DATA, FAULT and the result registers. -/

namespace Sys2Proof.Machine

/-! ### The decoder: a command comes from its own word only (R61, R63 30_encoding.md) -/

theorem joinFields_splitFields (w : Word) : joinFields (splitFields w) = w := by
  ext i hi
  simp only [joinFields, splitFields]
  interval_cases i <;> simp

theorem instrFields_selectInstr {f : CmdFields} (h : f.wf = true) : instrFields (selectInstr f.op f.imm8) = f := by
  obtain ⟨op, imm, zero⟩ := f
  simp only [CmdFields.wf, CmdFields.opDefined, CmdFields.immOk, CmdFields.zeroOk, Bool.and_eq_true, Bool.or_eq_true,
    beq_iff_eq, decide_eq_true_eq] at h
  obtain ⟨⟨hop, himm⟩, rfl⟩ := h
  have hop5 : op = 0#8 ∨ op = 1#8 ∨ op = 2#8 ∨ op = 3#8 ∨ op = 4#8 := by bv_omega
  obtain rfl | rfl | rfl | rfl | rfl := hop5 <;> simp_all [selectInstr, instrFields]

theorem decode_ok {w : Word} {i : Instr} (h : decode w = .ok i) :
    (splitFields w).wf = true ∧ selectInstr (splitFields w).op (splitFields w).imm8 = i := by
  simp only [decode] at h
  split at h
  · contradiction
  · split at h
    · contradiction
    · split at h
      · contradiction
      · simp_all [CmdFields.wf]

/-- A word that decodes to a command is the word of that command. -/
theorem eq_encode_of_decode {w : Word} {i : Instr} (h : decode w = .ok i) : w = encode i := by
  obtain ⟨hwf, hi⟩ := decode_ok h
  rw [encode, ← hi, instrFields_selectInstr hwf, joinFields_splitFields]

theorem Event.isReset_of_decode {e : Event} {w : Word} (hw : commandWord e = some w) (hd : decode w = .ok .softReset) :
    e.isReset = true := by
  have hw' : commandWord e = some (encode .softReset) := eq_encode_of_decode hd ▸ hw
  cases e <;> simp [Event.isReset, hw']

/-! ### The steps of a host access -/

theorem step_hostRead {s : State} {addr : Byte} {rest : List Event} (hin : s.inbox = .hostRead addr :: rest) :
    step s = .next ((s.setInbox rest).giveHost ((s.setInbox rest).hostRead addr)) := by
  simp [step, hin, commandWord, applyEvent]

theorem step_hostWrite {s : State} {addr : Byte} {v : Word} {rest : List Event} (hin : s.inbox = .hostWrite addr v :: rest)
    (hreg : regAt addr ≠ some .cmd) : step s = .next ((s.setInbox rest).hostWrite addr v) := by
  simp [step, hin, commandWord, hreg, applyEvent]

theorem regAt_offset (r : Reg) : regAt r.offset = some r := by
  cases r with
  | addrLo e => revert e; decide
  | addrHi e => revert e; decide
  | _ => rfl

theorem State.hostRead_offset (s : State) (r : Reg) : s.hostRead r.offset = s.readReg r := by
  simp [State.hostRead, regAt_offset]

theorem State.hostWrite_offset (s : State) (r : Reg) (v : Word) : s.hostWrite r.offset v = s.writeReg r v := by
  simp [State.hostWrite, regAt_offset]

theorem step_readReg {s : State} {r : Reg} {rest : List Event} (hin : s.inbox = .hostRead r.offset :: rest) :
    step s = .next ((s.setInbox rest).giveHost ((s.setInbox rest).readReg r)) := by
  rw [step_hostRead hin, State.hostRead_offset]

theorem step_writeReg {s : State} {r : Reg} {v : Word} {rest : List Event} (hin : s.inbox = .hostWrite r.offset v :: rest)
    (hr : r ≠ .cmd) : step s = .next ((s.setInbox rest).writeReg r v) := by
  rw [step_hostWrite hin (by simpa [regAt_offset] using hr), State.hostWrite_offset]

theorem State.writeReg_of_locked {s : State} (hm : s.mode ≠ .idle) {r : Reg} (hr : r.lockedClass = true) (v : Word) :
    s.writeReg r v = s.setWign := by
  simp [State.writeReg, hr, State.locked, hm]

theorem State.writeReg_coefData {s : State} (hm : s.mode = .idle) (v : Word) :
    s.writeReg .coefData v = s.pushCoef (v.setWidth 16) := by
  simp [State.writeReg, Reg.lockedClass, State.locked, hm]

theorem State.writeReg_store {s : State} (hm : s.mode = .idle) {r : Reg} (hr : r.lockedClass = true) (hc : r ≠ .coefData) (v : Word) :
    s.writeReg r v = s.setRegs (s.regs.store v r) := by
  simp [State.writeReg, hr, hc, State.locked, hm]

/-! ### What the remaining events and the checks of START can do -/

theorem State.afterMove_cases (s : State) : s.afterMove = s ∨ s.afterMove = s.complete := by
  unfold State.afterMove
  split
  · exact .inr rfl
  · exact .inl rfl

theorem sinkError_cases (s : State) :
    (s.mode = .run ∧ sinkError s = { s.raise .sinkWriteError 0xFF#8 with mode := .idle })
      ∨ (s.mode ≠ .run ∧ sinkError s = s) := by
  unfold sinkError
  split
  · exact .inl ⟨‹_›, rfl⟩
  · exact .inr ⟨‹_›, rfl⟩

/-- Every failed check of START is of a kind (R130 60_exceptions.md). -/
theorem State.check_kind_ne_none {s : State} {k : ErrorKind} {i : Byte} (h : s.check = some (k, i)) : k ≠ .none := by
  rintro rfl
  unfold State.check at h
  split at h
  · simp at h
  · split at h
    · simp at h
    · split at h
      · simp at h
      · split at h
        · simp at h
        · split at h
          · simp at h
          · split at h <;> simp at h

/-! ### Steps that touch only CTRL, the status bits and ERRINFO -/

/-- `t` is `s` but for CTRL, the status bits, ERRINFO and what the world outside holds of events and words read. -/
structure State.SameButFlags (s t : State) : Prop where
  mode     : t.mode = s.mode
  regs     : t.regs = s.regs
  infoLen  : t.infoLen = s.infoLen
  fcs      : t.fcs = s.fcs
  frameLen : t.frameLen = s.frameLen
  bitCount : t.bitCount = s.bitCount
  outPos   : t.outPos = s.outPos
  coef     : t.coef = s.coef
  info     : t.info = s.info
  frame    : t.frame = s.frame
  pipe     : t.pipe = s.pipe
  draw     : t.draw = s.draw
  sinkGot  : t.sinkGot = s.sinkGot

namespace State.SameButFlags

variable (s : State)

theorem refl : s.SameButFlags s := by constructor <;> rfl

theorem setInbox (es : List Event) : s.SameButFlags (s.setInbox es) := by constructor <;> rfl

theorem giveHost (v : Word) : s.SameButFlags (s.giveHost v) := by constructor <;> rfl

theorem setCtrl (v : BitVec 2) : s.SameButFlags (s.setCtrl v) := by constructor <;> rfl

theorem setWign : s.SameButFlags s.setWign := by constructor <;> rfl

theorem ackStatus (v : Word) : s.SameButFlags (s.ackStatus v) := by constructor <;> rfl

theorem raise (k : ErrorKind) (i : Byte) : s.SameButFlags (s.raise k i) := by constructor <;> simp

variable {s} {t u : State}

theorem trans (h : s.SameButFlags t) (h' : t.SameButFlags u) : s.SameButFlags u where
  mode := h'.mode.trans h.mode
  regs := h'.regs.trans h.regs
  infoLen := h'.infoLen.trans h.infoLen
  fcs := h'.fcs.trans h.fcs
  frameLen := h'.frameLen.trans h.frameLen
  bitCount := h'.bitCount.trans h.bitCount
  outPos := h'.outPos.trans h.outPos
  coef := h'.coef.trans h.coef
  info := h'.info.trans h.info
  frame := h'.frame.trans h.frame
  pipe := h'.pipe.trans h.pipe
  draw := h'.draw.trans h.draw
  sinkGot := h'.sinkGot.trans h.sinkGot

theorem sameStream (h : s.SameButFlags t) : s.SameStream t := ⟨h.regs, h.frame, h.frameLen, h.coef, h.draw⟩

/-- The lock (R14 10_state.md): outside IDLE a host write touches flags only. -/
theorem hostWrite_of_locked (hm : s.mode ≠ .idle) (addr : Byte) (v : Word) : s.SameButFlags (s.hostWrite addr v) := by
  obtain h | ⟨-, h⟩ | ⟨-, h⟩ | ⟨-, h⟩ | ⟨hi, -⟩ | ⟨hi, -⟩ := s.hostWrite_cases addr v
  · rw [h]; exact refl s
  · rw [h]; exact setCtrl s _
  · rw [h]; exact ackStatus s v
  · rw [h]; exact setWign s
  · exact absurd hi hm
  · exact absurd hi hm

/-- The lock (R117 46_commands.md): outside IDLE a command other than SOFT_RESET touches flags only. -/
theorem exec_of_locked (hm : s.mode ≠ .idle) {i : Instr} (hi : i ≠ .softReset) (h : exec i s = .next t) : s.SameButFlags t := by
  obtain ⟨-, hx⟩ | ⟨hr, -⟩ | ⟨-, -, -, hx⟩ | ⟨-, hm', -⟩ | ⟨-, -, hm', -⟩ | ⟨-, hm', -⟩ := exec_cases i s
  · obtain rfl := Host.Outcome.next.inj (hx.symm.trans h)
    exact refl _
  · exact absurd hr hi
  · obtain rfl := Host.Outcome.next.inj (hx.symm.trans h)
    exact setWign s
  all_goals exact absurd hm' hm

end State.SameButFlags

/-! ### O56: FAULT -/

/-- In FAULT a step touches flags only, or it is a reset. -/
theorem step_of_fault {s t : State} (hm : s.mode = .fault) (h : step s = .next t) :
    s.SameButFlags t ∨ ∃ e rest, s.inbox = e :: rest ∧ e.isReset = true ∧ t = (s.setInbox rest).resetCore := by
  obtain ⟨-, rfl⟩ | ⟨e, rest, hin, hcase⟩ := step_cases h
  · exact .inl (.refl _)
  · have hidle : (s.setInbox rest).mode ≠ .idle := by simp [hm]
    have hrun : (s.setInbox rest).mode ≠ .run := by simp [hm]
    obtain ⟨w, i, hw, hd, hx⟩ | ⟨w, d, -, -, rfl⟩ | ⟨addr, -, rfl⟩ | ⟨addr, v, -, -, rfl⟩ | ⟨-, hx⟩ | ⟨-, rfl⟩ | ⟨rfl, rfl⟩ := hcase
    · by_cases hi : i = .softReset
      · subst hi
        exact .inr ⟨e, rest, hin, Event.isReset_of_decode hw hd, by simpa [exec, execSoftReset] using hx.symm⟩
      · exact .inl ((State.SameButFlags.setInbox s rest).trans (.exec_of_locked hidle hi hx))
    · exact .inl ((State.SameButFlags.setInbox s rest).trans (.raise _ _ _))
    · exact .inl ((State.SameButFlags.setInbox s rest).trans (.giveHost _ _))
    · exact .inl ((State.SameButFlags.setInbox s rest).trans (.hostWrite_of_locked hidle addr v))
    · obtain ⟨-, rfl⟩ | ⟨hr, -⟩ := sinkReady_next hx
      · exact .inl (.setInbox s rest)
      · exact absurd hr hrun
    · obtain ⟨hr, -⟩ | ⟨-, hs⟩ := sinkError_cases (s.setInbox rest)
      · exact absurd hr hrun
      · rw [hs]; exact .inl (.setInbox s rest)
    · exact .inr ⟨_, rest, hin, rfl, rfl⟩

/-- Settles O56: outside a reset a step from FAULT touches flags only, and a reset enters IDLE. -/
theorem faultLeftOnlyByReset : Obligations.FaultLeftOnlyByReset := by
  intro s t hm h
  obtain hf | ⟨e, rest, hin, he, rfl⟩ := step_of_fault hm h
  · exact .inl ⟨hf.mode.trans hm, hf.sinkGot, hf.regs, hf.infoLen, hf.outPos⟩
  · exact .inr ⟨e, rest, hin, he, rfl⟩

/-! ### O52: the invariant, operation by operation -/

namespace State.Inv

variable {s t : State}

/-- What touches flags only keeps the invariant, if it sets no DONE and records no error without a kind. -/
theorem congr (hs : s.Inv) (h : s.SameButFlags t) (hd : s.done = false → t.done = false)
    (he : t.err = true → t.errKind ≠ .none) : t.Inv where
  mem := by
    obtain ⟨hcoef, hinfo, hframe⟩ := hs.mem
    exact ⟨h.coef ▸ hcoef, h.info ▸ hinfo, h.frame ▸ hframe⟩
  reg := by
    obtain ⟨hlen, hones, hphi, -⟩ := hs.reg
    exact ⟨h.infoLen ▸ hlen, h.pipe ▸ hones, h.pipe ▸ hphi, he⟩
  run hm := (hs.run (h.mode ▸ hm)).congr h.sameStream h.bitCount h.outPos h.pipe h.sinkGot hd

theorem errKind_ne_none (hs : s.Inv) : s.err = true → s.errKind ≠ .none := by
  obtain ⟨-, -, -, herr⟩ := hs.reg
  exact herr

/-- Outside RUN the invariant is that of the memories and the registers. -/
theorem of_not_run (hm : t.mode ≠ .run) (mem : t.MemOk) (reg : t.RegOk) : t.Inv := ⟨mem, reg, fun h => absurd h hm⟩

theorem setInbox (hs : s.Inv) (es : List Event) : (s.setInbox es).Inv :=
  hs.congr (.setInbox s es) id hs.errKind_ne_none

theorem giveHost (hs : s.Inv) (v : Word) : (s.giveHost v).Inv :=
  hs.congr (.giveHost s v) id hs.errKind_ne_none

theorem setCtrl (hs : s.Inv) (v : BitVec 2) : (s.setCtrl v).Inv :=
  hs.congr (.setCtrl s v) id hs.errKind_ne_none

theorem setWign (hs : s.Inv) : s.setWign.Inv :=
  hs.congr (.setWign s) id hs.errKind_ne_none

theorem ackStatus (hs : s.Inv) (v : Word) : (s.ackStatus v).Inv := by
  refine hs.congr (.ackStatus s v) (fun hd => by simp [hd]) fun he => ?_
  have herr : s.err = true := by simp_all
  exact hs.errKind_ne_none herr

theorem raise_errKind_ne_none (hs : s.Inv) {k : ErrorKind} (hk : k ≠ .none) (i : Byte) : (s.raise k i).errKind ≠ .none := by
  rw [State.raise_errKind]
  split
  · exact hs.errKind_ne_none ‹_›
  · exact hk

theorem raise (hs : s.Inv) {k : ErrorKind} (hk : k ≠ .none) (i : Byte) : (s.raise k i).Inv :=
  hs.congr (.raise s k i) (fun hd => by simp [hd]) fun _ => hs.raise_errKind_ne_none hk i

theorem resetCore (hs : s.Inv) : s.resetCore.Inv := by
  obtain ⟨hcoef, hinfo, -⟩ := hs.mem
  exact of_not_run (by simp [State.reset]) ⟨hcoef, hinfo, rfl⟩ (by simp [State.RegOk, State.reset, Pipe.reset, Config.ddsMod])

theorem setRegs (hs : s.Inv) (hm : s.mode = .idle) (r : Regs) : (s.setRegs r).Inv :=
  of_not_run (by simp [hm]) hs.mem hs.reg

theorem pushCoef (hs : s.Inv) (hm : s.mode = .idle) (v : Half) : (s.pushCoef v).Inv := by
  obtain ⟨hcoef, hinfo, hframe⟩ := hs.mem
  exact of_not_run (by simp [hm]) ⟨Memory.wf_write s.regs.coefPtr.isLt v hcoef, hinfo, hframe⟩ hs.reg

theorem hostWrite (hs : s.Inv) (addr : Byte) (v : Word) : (s.hostWrite addr v).Inv := by
  obtain h | ⟨-, h⟩ | ⟨-, h⟩ | ⟨-, h⟩ | ⟨hm, -, h⟩ | ⟨hm, r, -, -, -, h⟩ := s.hostWrite_cases addr v
  · rwa [h]
  · rw [h]; exact hs.setCtrl _
  · rw [h]; exact hs.ackStatus v
  · rw [h]; exact hs.setWign
  · rw [h]; exact hs.pushCoef hm _
  · rw [h]; exact hs.setRegs hm _

theorem clearInfo (hs : s.Inv) (hm : s.mode = .idle) : s.clearInfo.Inv := by
  obtain ⟨-, hones, hphi, herr⟩ := hs.reg
  exact of_not_run (by simp [hm]) hs.mem ⟨Nat.zero_le _, hones, hphi, herr⟩

theorem pushInfoByte (hs : s.Inv) (hm : s.mode = .idle) (hlt : s.infoLen.toNat < Config.infoCap) (b : Byte) :
    (s.pushInfoByte b).Inv := by
  obtain ⟨hcoef, hinfo, hframe⟩ := hs.mem
  obtain ⟨-, hones, hphi, herr⟩ := hs.reg
  have hlen : (s.infoLen + 1#9).toNat ≤ Config.infoCap := by simp only [Config.infoCap] at *; bv_omega
  exact of_not_run (by simp [hm]) ⟨hcoef, Memory.wf_write hlt b hinfo, hframe⟩ ⟨hlen, hones, hphi, herr⟩

theorem push (hs : s.Inv) (hm : s.mode = .idle) (b : Byte) : (s.push b).Inv := by
  obtain ⟨-, h⟩ | ⟨hlt, h⟩ := s.push_cases b
  · rw [h]; exact hs.raise (by decide) _
  · rw [h]; exact hs.pushInfoByte hm (by omega) b

theorem loadFrame_memOk (hs : s.Inv) (hc : s.check = none) : s.loadFrame.MemOk := by
  obtain ⟨hcoef, hinfo, hframe⟩ := hs.mem
  exact ⟨hcoef, hinfo, Memory.wf_writeAll _ 0 (by simpa using State.buildFrame_fits hc) hframe⟩

theorem enterRun (hs : s.Inv) (hc : s.check = none) : s.loadFrame.enterRun.Inv := by
  obtain ⟨hrun, hreg⟩ := State.enterRun_runOk hs.reg hc
  exact ⟨hs.loadFrame_memOk hc, hreg, fun _ => hrun⟩

/-- The guarded way into FAULT (R134 60_exceptions.md) keeps the invariant, whether or not it can be taken. -/
theorem enterFault (hs : s.Inv) (hc : s.check = none) : s.loadFrame.enterFault.Inv := by
  obtain ⟨-, hreg⟩ := State.enterRun_runOk hs.reg hc
  have hf : ({ s.loadFrame with mode := .fault } : State).Inv := of_not_run (by simp) (hs.loadFrame_memOk hc) hreg
  exact hf.raise (by decide) _

theorem startRun (hs : s.Inv) : s.startRun.Inv := by
  obtain ⟨k, i, hc, h⟩ | ⟨hc, -, h⟩ | ⟨hc, -, h⟩ := s.startRun_cases
  · rw [h]; exact hs.raise (State.check_kind_ne_none hc) i
  · rw [h]; exact hs.enterRun hc
  · rw [h]; exact hs.enterFault hc

theorem exec (hs : s.Inv) {i : Instr} (h : Machine.exec i s = .next t) : t.Inv := by
  obtain ⟨-, hx⟩ | ⟨-, hx⟩ | ⟨-, -, -, hx⟩ | ⟨-, hm, hx⟩ | ⟨b, -, hm, hx⟩ | ⟨-, -, hx⟩ := exec_cases i s
    <;> obtain rfl := Host.Outcome.next.inj (hx.symm.trans h)
  · exact hs
  · exact hs.resetCore
  · exact hs.setWign
  · exact hs.clearInfo hm
  · exact hs.push hm b
  · exact hs.startRun

theorem complete (hmem : s.MemOk) (hreg : s.RegOk) : s.complete.Inv := of_not_run (by simp) hmem hreg

theorem sinkReady (hs : s.Inv) (h : Machine.sinkReady s = .next t) : t.Inv := by
  obtain ⟨-, rfl⟩ | ⟨hm, b, q, htake, rfl⟩ := sinkReady_next h
  · exact hs
  · obtain ⟨b', q', htake', -, -, hreg, hend, -⟩ := State.moveByte_spec hs.reg (hs.run hm)
    obtain ⟨rfl, rfl⟩ : b' = b ∧ q' = q := by simpa [htake'] using htake
    obtain ⟨-, h⟩ | ⟨-, h, hrun⟩ := hend
    · rw [h]; exact complete hs.mem hreg
    · rw [h]; exact ⟨hs.mem, hreg, fun _ => hrun⟩

theorem sinkError (hs : s.Inv) : (Machine.sinkError s).Inv := by
  obtain ⟨-, h⟩ | ⟨-, h⟩ := sinkError_cases s
  · have hr := hs.raise (k := .sinkWriteError) (by decide) 0xFF#8
    rw [h]; exact of_not_run (by simp) hr.mem hr.reg
  · rwa [h]

theorem step (hs : s.Inv) (h : Machine.step s = .next t) : t.Inv := by
  obtain ⟨-, rfl⟩ | ⟨e, rest, -, hcase⟩ := step_cases h
  · exact hs
  · have hu : (s.setInbox rest).Inv := hs.setInbox rest
    obtain ⟨w, i, -, -, hx⟩ | ⟨w, d, -, -, rfl⟩ | ⟨addr, -, rfl⟩ | ⟨addr, v, -, -, rfl⟩ | ⟨-, hx⟩ | ⟨-, rfl⟩ | ⟨-, rfl⟩ := hcase
    · exact hu.exec hx
    · exact hu.raise (by decide) _
    · exact hu.giveHost _
    · exact hu.hostWrite addr v
    · exact hu.sinkReady hx
    · exact hu.sinkError
    · exact hu.resetCore

end State.Inv

/-- Settles O52, one lemma of `State.Inv` for each operation a step can do. -/
theorem stepKeepsInvariant : Obligations.StepKeepsInvariant := fun _ _ hs h => hs.step h

/-! ### O8: ERRINFO -/

/-- What a step that is no reset may do to ERRINFO: keep it, or record an error while ERR = 0 (R21 10_state.md). -/
def State.ErrInfoStep (s t : State) : Prop :=
  (t.errKind = s.errKind ∧ t.errIndex = s.errIndex) ∨ (s.err = false ∧ t.err = true)

namespace State.ErrInfoStep

variable {s t : State}

theorem kept (hk : t.errKind = s.errKind) (hi : t.errIndex = s.errIndex) : s.ErrInfoStep t := .inl ⟨hk, hi⟩

theorem raise (s : State) (k : ErrorKind) (i : Byte) : s.ErrInfoStep (s.raise k i) := by
  cases he : s.err with
  | true => exact kept (by simp [he]) (by simp [he])
  | false => exact .inr ⟨he, by simp⟩

theorem hostWrite (s : State) (addr : Byte) (v : Word) : s.ErrInfoStep (s.hostWrite addr v) := by
  obtain h | ⟨-, h⟩ | ⟨-, h⟩ | ⟨-, h⟩ | ⟨-, -, h⟩ | ⟨-, r, -, -, -, h⟩ := s.hostWrite_cases addr v
    <;> rw [h] <;> exact kept rfl rfl

theorem push (s : State) (b : Byte) : s.ErrInfoStep (s.push b) := by
  obtain ⟨-, h⟩ | ⟨-, h⟩ := s.push_cases b
  · rw [h]; exact raise s _ _
  · rw [h]; exact kept rfl rfl

theorem startRun (s : State) : s.ErrInfoStep s.startRun := by
  obtain ⟨k, i, -, h⟩ | ⟨-, -, h⟩ | ⟨-, -, h⟩ := s.startRun_cases
  · rw [h]; exact raise s k i
  · rw [h]; exact kept rfl rfl
  · rw [h]; exact raise { s.loadFrame with mode := .fault } _ _

theorem exec {i : Instr} (hi : i ≠ .softReset) (h : Machine.exec i s = .next t) : s.ErrInfoStep t := by
  obtain ⟨-, hx⟩ | ⟨hr, -⟩ | ⟨-, -, -, hx⟩ | ⟨-, -, hx⟩ | ⟨b, -, -, hx⟩ | ⟨-, -, hx⟩ := exec_cases i s
  · obtain rfl := Host.Outcome.next.inj (hx.symm.trans h); exact kept rfl rfl
  · exact absurd hr hi
  · obtain rfl := Host.Outcome.next.inj (hx.symm.trans h); exact kept rfl rfl
  · obtain rfl := Host.Outcome.next.inj (hx.symm.trans h); exact kept rfl rfl
  · obtain rfl := Host.Outcome.next.inj (hx.symm.trans h); exact push s b
  · obtain rfl := Host.Outcome.next.inj (hx.symm.trans h); exact startRun s

theorem sinkReady (h : Machine.sinkReady s = .next t) : s.ErrInfoStep t := by
  obtain ⟨-, rfl⟩ | ⟨-, b, q, -, rfl⟩ := sinkReady_next h
  · exact kept rfl rfl
  · obtain h | h := (s.moveByte b q).afterMove_cases <;> rw [h] <;> exact kept rfl rfl

theorem sinkError (s : State) : s.ErrInfoStep (Machine.sinkError s) := by
  obtain ⟨-, h⟩ | ⟨-, h⟩ := sinkError_cases s
  · rw [h]; exact raise s _ _
  · rw [h]; exact kept rfl rfl

/-- The event's leaving the inbox changes nothing of ERR and ERRINFO. -/
theorem of_setInbox {es : List Event} (h : (s.setInbox es).ErrInfoStep t) : s.ErrInfoStep t := h

theorem step (h : Machine.step s = .next t) :
    s.ErrInfoStep t ∨ ∃ e rest, s.inbox = e :: rest ∧ e.isReset = true := by
  obtain ⟨-, rfl⟩ | ⟨e, rest, hin, hcase⟩ := step_cases h
  · exact .inl (kept rfl rfl)
  · obtain ⟨w, i, hw, hd, hx⟩ | ⟨w, d, -, -, rfl⟩ | ⟨addr, -, rfl⟩ | ⟨addr, v, -, -, rfl⟩ | ⟨-, hx⟩ | ⟨-, rfl⟩ | ⟨rfl, -⟩ := hcase
    · by_cases hi : i = .softReset
      · subst hi; exact .inr ⟨e, rest, hin, Event.isReset_of_decode hw hd⟩
      · exact .inl (of_setInbox (exec hi hx))
    · exact .inl (of_setInbox (raise _ _ _))
    · exact .inl (kept rfl rfl)
    · exact .inl (of_setInbox (hostWrite _ addr v))
    · exact .inl (of_setInbox (sinkReady hx))
    · exact .inl (of_setInbox (sinkError _))
    · exact .inr ⟨_, rest, hin, rfl⟩

end State.ErrInfoStep

/-- Settles O8: a step that is no reset keeps ERRINFO or records an error while ERR = 0. -/
theorem errInfoChangesOnlyWhenRecorded : Obligations.ErrInfoChangesOnlyWhenRecorded := by
  intro s t h hne
  obtain (⟨hk, hi⟩ | hrec) | hreset := State.ErrInfoStep.step h
  · exact absurd hne (by simp [hk, hi])
  · exact .inl hrec
  · exact .inr hreset

/-! ### O59: the result registers -/

/-- The registers and buffers that only commands and resets change (R15, R27 to R29, R35 10_state.md) are the same. -/
structure State.SameResults (s t : State) : Prop where
  info     : t.info = s.info
  infoLen  : t.infoLen = s.infoLen
  fcs      : t.fcs = s.fcs
  frame    : t.frame = s.frame
  frameLen : t.frameLen = s.frameLen
  bitCount : t.bitCount = s.bitCount

namespace State.SameResults

variable {s t : State}

theorem of_sameButFlags (h : s.SameButFlags t) : s.SameResults t :=
  ⟨h.info, h.infoLen, h.fcs, h.frame, h.frameLen, h.bitCount⟩

theorem hostWrite (s : State) (addr : Byte) (v : Word) : s.SameResults (s.hostWrite addr v) := by
  obtain h | ⟨-, h⟩ | ⟨-, h⟩ | ⟨-, h⟩ | ⟨-, -, h⟩ | ⟨-, r, -, -, -, h⟩ := s.hostWrite_cases addr v
    <;> rw [h] <;> constructor <;> rfl

theorem sinkReady (h : Machine.sinkReady s = .next t) : s.SameResults t := by
  obtain ⟨-, rfl⟩ | ⟨-, b, q, -, rfl⟩ := sinkReady_next h
  · constructor <;> rfl
  · obtain h | h := (s.moveByte b q).afterMove_cases <;> rw [h] <;> constructor <;> rfl

theorem sinkError (s : State) : s.SameResults (Machine.sinkError s) := by
  obtain ⟨-, h⟩ | ⟨-, h⟩ := sinkError_cases s
  · have hr := of_sameButFlags (.raise s .sinkWriteError 0xFF#8)
    rw [h]; exact ⟨hr.info, hr.infoLen, hr.fcs, hr.frame, hr.frameLen, hr.bitCount⟩
  · rw [h]; constructor <;> rfl

/-- The event's leaving the inbox changes none of them. -/
theorem of_setInbox {es : List Event} (h : (s.setInbox es).SameResults t) : s.SameResults t :=
  ⟨h.info, h.infoLen, h.fcs, h.frame, h.frameLen, h.bitCount⟩

theorem step {e : Event} {rest : List Event} (hin : s.inbox = e :: rest) (hcmd : commandWord e = none) (hreset : e ≠ .hwReset)
    (h : Machine.step s = .next t) : s.SameResults t := by
  obtain ⟨hnil, -⟩ | ⟨e', rest', hin', hcase⟩ := step_cases h
  · rw [hin] at hnil; contradiction
  · obtain ⟨rfl, rfl⟩ : e = e' ∧ rest = rest' := by simpa [hin] using hin'
    obtain ⟨w, i, hw, -⟩ | ⟨w, d, hw, -⟩ | ⟨addr, -, rfl⟩ | ⟨addr, v, -, -, rfl⟩ | ⟨-, hx⟩ | ⟨-, rfl⟩ | ⟨he, -⟩ := hcase
    · rw [hcmd] at hw; contradiction
    · rw [hcmd] at hw; contradiction
    · constructor <;> rfl
    · exact of_setInbox (hostWrite _ addr v)
    · exact of_setInbox (sinkReady hx)
    · exact of_setInbox (sinkError _)
    · exact absurd he hreset

end State.SameResults

/-- Settles O59, one lemma of `State.SameResults` for each event that is no command and no reset. -/
theorem resultRegistersChangeOnlyByCommands : Obligations.ResultRegistersChangeOnlyByCommands := by
  intro s t e rest hin hcmd hreset h
  obtain ⟨hinfo, hinfoLen, hfcs, hframe, hframeLen, hbitCount⟩ := State.SameResults.step hin hcmd hreset h
  exact ⟨hinfo, hinfoLen, hfcs, hframe, hframeLen, hbitCount⟩

/-! ### O14: COEF_DATA -/

theorem State.coefWord_pushCoef_same (s : State) (v : Half) : (s.pushCoef v).coefWord s.regs.coefPtr.toNat = v := by
  simp [State.coefWord]

theorem State.coefWord_pushCoef_other (s : State) (v : Half) {i : Nat} (hi : i ≠ s.regs.coefPtr.toNat) :
    (s.pushCoef v).coefWord i = s.coefWord i := by
  simp [State.coefWord, Memory.read_write_other _ hi]

/-- Settles O14, by the three accesses of offset 0x40: `pushCoef` in IDLE, `setWign` while locked, `giveHost` of the word. -/
theorem coefDataWritesAndAdvances : Obligations.CoefDataWritesAndAdvances := by
  intro s v rest
  refine ⟨fun hin hm => ?_, fun hin hm => ?_, fun hin => step_readReg (r := .coefData) hin⟩
  · have hu : (s.setInbox rest).mode = .idle := hm
    refine ⟨(s.setInbox rest).pushCoef (v.setWidth 16), ?_, ?_, fun i hi => State.coefWord_pushCoef_other _ _ hi, ?_, rfl⟩
    · rw [step_writeReg (r := .coefData) hin (by decide), State.writeReg_coefData hu]
    · rw [← BitVec.setWidth_eq_extractLsb' (by decide)]
      exact (s.setInbox rest).coefWord_pushCoef_same _
    · simp
  · have hu : (s.setInbox rest).mode ≠ .idle := hm
    rw [step_writeReg (r := .coefData) hin (by decide), State.writeReg_of_locked hu rfl]
    rfl

/-! ### O13: the read-write registers -/

/-- A stored field of `n` bits reads back as the written word masked to them. -/
theorem setWidth_setWidth_eq_and (n : Nat) (v : Word) : (v.setWidth n).setWidth 32 = v &&& BitVec.ofNat 32 (2 ^ n - 1) := by
  ext i hi
  simp [← BitVec.getLsbD_eq_getElem, BitVec.getLsbD_ofNat, Nat.testBit_two_pow_sub_one, hi, Bool.and_comm]

/-- The fields of CFG1 (R23 10_state.md) together are the word without its reserved bit 7. -/
theorem cfg1Fields_eq_and (v : Word) :
    ((v.extractLsb' 16 16).setWidth 32 <<< 16) ||| ((v.extractLsb' 8 8).setWidth 32 <<< 8) ||| (v.extractLsb' 0 7).setWidth 32
      = v &&& 0xFFFFFF7F#32 := by
  ext i hi
  interval_cases i <;> simp

namespace Regs

variable (g : Regs) (v : Word) {r : Reg}

theorem store_cfg0 (h : r ≠ .cfg0) : (g.store v r).cfg0 = g.cfg0 := by cases r <;> simp_all [Regs.store]

theorem store_cfg1 (h : r ≠ .cfg1) :
    (g.store v r).l = g.l ∧ (g.store v r).tpp = g.tpp ∧ (g.store v r).flush = g.flush := by cases r <;> simp_all [Regs.store]

theorem store_fmK (h : r ≠ .fmK) : (g.store v r).fmK = g.fmK := by cases r <;> simp_all [Regs.store]

theorem store_infoMax (h : r ≠ .infoMax) : (g.store v r).infoMax = g.infoMax := by cases r <;> simp_all [Regs.store]

theorem store_coefPtr (h : r ≠ .coefPtr) : (g.store v r).coefPtr = g.coefPtr := by cases r <;> simp_all [Regs.store]

theorem store_addrLo {e : Fin 10} (h : r ≠ .addrLo e) : (g.store v r).addr[e].lo = g.addr[e].lo := by
  cases r with
  | addrLo d =>
    have hne : d.val ≠ e.val := fun he => h (by rw [Fin.ext he])
    simp [Regs.store, Vector.getElem_set_ne, hne]
  | addrHi d => by_cases he : d.val = e.val <;> simp [Regs.store, he]
  | _ => rfl

theorem store_addrHi {e : Fin 10} (h : r ≠ .addrHi e) : (g.store v r).addr[e].hi = g.addr[e].hi := by
  cases r with
  | addrLo d => by_cases he : d.val = e.val <;> simp [Regs.store, he]
  | addrHi d =>
    have hne : d.val ≠ e.val := fun he => h (by rw [Fin.ext he])
    simp [Regs.store, Vector.getElem_set_ne, hne]
  | _ => rfl

end Regs

/-- A stored register changes what no other register reads, but COEF_DATA, which COEF_PTR moves (R15, R32 10_state.md). -/
theorem State.readReg_setRegs_store_other (s : State) (v : Word) {r r' : Reg} (hne : r ≠ r') (hc : r' ≠ .coefData) :
    (s.setRegs (s.regs.store v r)).readReg r' = s.readReg r' := by
  cases r' with
  | cfg0 => simp only [State.readReg, State.setRegs_regs, Regs.store_cfg0 _ v hne]
  | cfg1 =>
    obtain ⟨hl, htpp, hflush⟩ := Regs.store_cfg1 s.regs v hne
    simp only [State.readReg, State.setRegs_regs, hl, htpp, hflush]
  | fmK => simp only [State.readReg, State.setRegs_regs, Regs.store_fmK _ v hne]
  | infoMax => simp only [State.readReg, State.setRegs_regs, Regs.store_infoMax _ v hne]
  | coefPtr => simp only [State.readReg, State.setRegs_regs, Regs.store_coefPtr _ v hne]
  | addrLo e => simp only [State.readReg, State.setRegs_regs, Regs.store_addrLo _ v hne]
  | addrHi e => simp only [State.readReg, State.setRegs_regs, Regs.store_addrHi _ v hne]
  | coefData => exact absurd rfl hc
  | _ => rfl

/-- The registers O13 speaks of. -/
theorem Reg.lockedClass_of_stored {r : Reg}
    (h : r ∈ [Reg.cfg0, .cfg1, .fmK, .infoMax, .coefPtr] ∨ (∃ e, r = .addrLo e) ∨ ∃ e, r = .addrHi e) :
    r.lockedClass = true ∧ r ≠ .coefData := by
  obtain h | ⟨e, rfl⟩ | ⟨e, rfl⟩ := h
  · revert r; decide
  · exact ⟨rfl, nofun⟩
  · exact ⟨rfl, nofun⟩

/-- Settles O13: a stored register reads back its own fields, masked, and no other register reads its fields. -/
theorem writtenRegisterReadsBack : Obligations.WrittenRegisterReadsBack := by
  intro s r v hm hr mask
  obtain ⟨hk, hc⟩ := Reg.lockedClass_of_stored hr
  simp only [State.hostRead_offset, State.hostWrite_offset, State.writeReg_store hm hk hc]
  refine ⟨?_, fun r' hne hc' => s.readReg_setRegs_store_other v hne.symm hc'⟩
  cases r with
  | cfg0 => exact setWidth_setWidth_eq_and 24 v
  | cfg1 => exact cfg1Fields_eq_and v
  | fmK => exact setWidth_setWidth_eq_and 16 v
  | infoMax => exact setWidth_setWidth_eq_and 9 v
  | coefPtr => exact setWidth_setWidth_eq_and 12 v
  | addrLo e => exact Eq.trans (by simp [State.readReg, Regs.store]) BitVec.and_allOnes.symm
  | addrHi e => simpa [State.readReg, Regs.store] using setWidth_setWidth_eq_and 24 v
  | _ => simp at hr

end Sys2Proof.Machine
end

section
/-! PROOFS. The statements of 20_memory.md: the register window's host address, and what a run keeps fixed. -/

namespace Sys2Proof.Machine

/-! ### O15: the window at CORE_BASE -/

/-- Settles O15: CORE_BASE cancels, and what is left is a byte. -/
theorem windowAddressReachesOffset : Obligations.WindowAddressReachesOffset := by
  intro addr
  have hoff : Config.coreBase + addr.setWidth 32 - Config.coreBase = addr.setWidth 32 := add_sub_cancel_left _ _
  have hlt : (addr.setWidth 32).toNat < 256 := by
    rw [BitVec.toNat_setWidth_of_le (by decide)]; exact addr.isLt
  rw [windowOffset, hoff, if_pos hlt, BitVec.setWidth_setWidth_of_le _ (by decide), BitVec.setWidth_eq]

/-! ### O58: a run uses what was present at its START -/

/-- WHAT A STEP FROM RUN CAN DO (R14, R34 10_state.md, R126 46_commands.md): touch flags only, move the byte at the port, be aborted by the sink,
or reset. -/
theorem step_of_run {s t : State} (hm : s.mode = .run) (h : step s = .next t) :
    s.SameButFlags t
      ∨ (∃ rest b q, s.inbox = .sinkReady :: rest ∧ s.takeByte = some (b, q) ∧ t = ((s.setInbox rest).moveByte b q).afterMove)
      ∨ (∃ rest, s.inbox = .sinkError :: rest ∧ t = { (s.setInbox rest).raise .sinkWriteError 0xFF#8 with mode := .idle })
      ∨ ∃ e rest, s.inbox = e :: rest ∧ e.isReset = true ∧ t = (s.setInbox rest).resetCore := by
  obtain ⟨-, rfl⟩ | ⟨e, rest, hin, hcase⟩ := step_cases h
  · exact .inl (.refl _)
  · have hrun : (s.setInbox rest).mode = .run := hm
    have hidle : (s.setInbox rest).mode ≠ .idle := by simp [hm]
    have hbox := State.SameButFlags.setInbox s rest
    obtain ⟨w, i, hw, hd, hx⟩ | ⟨w, d, -, -, rfl⟩ | ⟨addr, -, rfl⟩ | ⟨addr, v, -, -, rfl⟩ | ⟨rfl, hx⟩ | ⟨rfl, rfl⟩ | ⟨rfl, rfl⟩ := hcase
    · by_cases hi : i = .softReset
      · subst hi
        exact .inr (.inr (.inr ⟨e, rest, hin, Event.isReset_of_decode hw hd, (Host.Outcome.next.inj hx).symm⟩))
      · exact .inl (hbox.trans (.exec_of_locked hidle hi hx))
    · exact .inl (hbox.trans (.raise _ _ _))
    · exact .inl (hbox.trans (.giveHost _ _))
    · exact .inl (hbox.trans (.hostWrite_of_locked hidle addr v))
    · obtain ⟨hne, -⟩ | ⟨-, b, q, htake, rfl⟩ := sinkReady_next hx
      · exact absurd hrun hne
      · exact .inr (.inl ⟨rest, b, q, hin, htake, rfl⟩)
    · exact .inr (.inr (.inl ⟨rest, hin, if_pos hrun⟩))
    · exact .inr (.inr (.inr ⟨_, rest, hin, rfl, rfl⟩))

theorem State.resetCore_mode_ne_run (s : State) : s.resetCore.mode ≠ .run := nofun

/-- The event's leaving the inbox changes nothing OUTSEQ depends on. -/
theorem State.SameStream.of_setInbox {s t : State} {es : List Event} (h : (s.setInbox es).SameStream t) : s.SameStream t :=
  ⟨h.regs, h.frame, h.frameLen, h.coef, h.draw⟩

/-- A byte's move changes neither what OUTSEQ depends on nor a result register (R124 46_commands.md). -/
theorem State.afterMove_moveByte_keeps (s : State) (b : Byte) (q : Pipe) :
    s.SameStream (s.moveByte b q).afterMove ∧ s.SameResults (s.moveByte b q).afterMove := by
  obtain h | h := (s.moveByte b q).afterMove_cases <;> rw [h] <;> constructor <;> constructor <;> rfl

/-- A step that stays in RUN changes neither what OUTSEQ depends on nor a result register. -/
theorem step_within_run_keeps {s t : State} (hm : s.mode = .run) (h : step s = .next t) (hm' : t.mode = .run) :
    s.SameStream t ∧ s.SameResults t := by
  obtain hf | ⟨rest, b, q, -, -, rfl⟩ | ⟨rest, -, rfl⟩ | ⟨e, rest, -, -, rfl⟩ := step_of_run hm h
  · exact ⟨hf.sameStream, .of_sameButFlags hf⟩
  · obtain ⟨hstream, hres⟩ := (s.setInbox rest).afterMove_moveByte_keeps b q
    exact ⟨.of_setInbox hstream, .of_setInbox hres⟩
  · contradiction
  · exact absurd hm' (State.resetCore_mode_ne_run _)

/-- Settles O58: OUTSEQ is a function of what a step within RUN keeps (`State.SameStream`). -/
theorem outseqFixedDuringRun : Obligations.OutseqFixedDuringRun := by
  intro s t hm h hm'
  obtain ⟨hstream, hres⟩ := step_within_run_keeps hm h hm'
  exact ⟨hstream.outseq, hstream.regs, hstream.coef, hres.info, hres.infoLen, hres.frame, hres.frameLen, hres.fcs, hres.bitCount⟩

end Sys2Proof.Machine
end

section
/-! PROOFS. The statements about the command words: decoding and encoding, the opcode map, the sample words (R61 to R64 30_encoding.md). -/

namespace Sys2Proof.Machine

/-! ### Decoding and encoding undo each other -/

theorem splitFields_joinFields (f : CmdFields) : splitFields (joinFields f) = f := by
  obtain ⟨op, imm8, zero⟩ := f
  simp only [splitFields, joinFields, CmdFields.mk.injEq]
  refine ⟨?_, ?_, ?_⟩ <;> ext i hi <;> interval_cases i <;> simp

theorem instrFields_wf (i : Instr) : (instrFields i).wf = true := by
  cases i with
  | pushInfo b => rfl
  | _ => decide

theorem selectInstr_instrFields (i : Instr) : selectInstr (instrFields i).op (instrFields i).imm8 = i := by
  cases i <;> rfl

/-- The converse of `decode_ok`: a word with well-formed fields is a command. -/
theorem decode_of_wf {w : Word} (h : (splitFields w).wf = true) :
    decode w = .ok (selectInstr (splitFields w).op (splitFields w).imm8) := by
  simp only [CmdFields.wf, Bool.and_eq_true] at h
  obtain ⟨⟨hop, himm⟩, hzero⟩ := h
  simp [decode, hop, himm, hzero]

@[simp] theorem decode_encode (i : Instr) : decode (encode i) = .ok i := by
  have hfields : splitFields (encode i) = instrFields i := splitFields_joinFields _
  rw [decode_of_wf (by rw [hfields]; exact instrFields_wf i), hfields, selectInstr_instrFields]

theorem decode_eq_ok_iff {w : Word} {i : Instr} : decode w = .ok i ↔ w = encode i :=
  ⟨eq_encode_of_decode, fun h => h ▸ decode_encode i⟩

theorem encode_injective : Function.Injective encode := fun i j h => by
  have hi : decode (encode j) = .ok i := h ▸ decode_encode i
  exact Except.ok.inj (hi.symm.trans (decode_encode j))

/-- Settles O2: the fields of a word and of a command determine each other. -/
theorem decodeInvertsEncode : Obligations.DecodeInvertsEncode := fun _ _ => decode_eq_ok_iff

/-! ### The opcode map (R63) -/

/-- The rows of the map are the rows of the commands; PUSH_INFO has one row for all its operands. -/
theorem mem_opcodeMap_iff {r : OpcodeRow} : r ∈ opcodeMap ↔ ∃ i, opcodeRow i = r := by
  constructor
  · intro h
    simp only [opcodeMap, List.mem_cons, List.not_mem_nil, or_false] at h
    obtain rfl | rfl | rfl | rfl | rfl := h <;> exact ⟨_, rfl⟩
  · rintro ⟨i, rfl⟩
    cases i <;> simp [opcodeMap, opcodeRow]

theorem encode_matches_opcodeRow (i : Instr) : encode i &&& (opcodeRow i).mask = (opcodeRow i).pattern := by
  have h : Laws.OpcodeRow.Statement i := by
    cases i with
    | nop => exact Laws.OpcodeRow.nop
    | clear => exact Laws.OpcodeRow.clear
    | pushInfo b => exact Laws.OpcodeRow.pushInfo b
    | start => exact Laws.OpcodeRow.start
    | softReset => exact Laws.OpcodeRow.softReset
  exact beq_iff_eq.mp h

/-- A row whose mask is full holds the one word of its command. -/
theorem eq_encode_of_full_mask {w : Word} {i : Instr} (hmask : (opcodeRow i).mask = BitVec.allOnes 32)
    (h : w &&& (opcodeRow i).mask = (opcodeRow i).pattern) : w = encode i := by
  have hw := h.trans (encode_matches_opcodeRow i).symm
  rwa [hmask, BitVec.and_allOnes, BitVec.and_allOnes] at hw

/-- A match fixes every field that the mask covers. -/
theorem extractLsb'_of_masked {w mask pattern : Word} {lo len : Nat} (hmask : mask.extractLsb' lo len = BitVec.allOnes len)
    (h : w &&& mask = pattern) : w.extractLsb' lo len = pattern.extractLsb' lo len := by
  rw [← h, BitVec.extractLsb'_and, hmask, BitVec.and_allOnes]

/-- The mask of PUSH_INFO covers the fields OP and ZERO, so a match leaves only the operand byte free. -/
theorem eq_encode_pushInfo {w : Word} (h : w &&& 0xFFFF00FF#32 = 0x00000002#32) : w = encode (.pushInfo (w.extractLsb' 8 8)) := by
  have hop : w.extractLsb' 0 8 = 2#8 := extractLsb'_of_masked rfl h
  have hzero : w.extractLsb' 16 16 = 0#16 := extractLsb'_of_masked rfl h
  calc w = joinFields (splitFields w) := (joinFields_splitFields w).symm
    _ = encode (.pushInfo (w.extractLsb' 8 8)) := by rw [splitFields, hop, hzero]; rfl

/-- A word matches the row of a command exactly when it is the word of a command of that row. -/
theorem matches_opcodeRow_iff {w : Word} {i : Instr} :
    w &&& (opcodeRow i).mask = (opcodeRow i).pattern ↔ ∃ j, w = encode j ∧ opcodeRow j = opcodeRow i := by
  constructor
  · intro h
    cases i with
    | pushInfo b => exact ⟨_, eq_encode_pushInfo h, rfl⟩
    | _ => exact ⟨_, eq_encode_of_full_mask rfl h, rfl⟩
  · rintro ⟨j, rfl, hrow⟩
    exact hrow ▸ encode_matches_opcodeRow j

/-- Settles O3: a word that matches a row is the word of one command of that row, since encoding is injective. -/
theorem opcodeMapSelectsCommand : Obligations.OpcodeMapSelectsCommand := by
  refine ⟨rfl, ?selects, ?selected, ?unique⟩
  case selects =>
    intro w r hr hw
    obtain ⟨i, rfl⟩ := mem_opcodeMap_iff.mp hr
    obtain ⟨j, rfl, hrow⟩ := matches_opcodeRow_iff.mp hw
    exact ⟨j, decode_encode j, hrow⟩
  case selected =>
    intro w i hd
    exact ⟨mem_opcodeMap_iff.mpr ⟨i, rfl⟩, eq_encode_of_decode hd ▸ encode_matches_opcodeRow i⟩
  case unique =>
    intro w r r' hr hr' hw hw'
    obtain ⟨i, rfl⟩ := mem_opcodeMap_iff.mp hr
    obtain ⟨i', rfl⟩ := mem_opcodeMap_iff.mp hr'
    obtain ⟨j, rfl, hrow⟩ := matches_opcodeRow_iff.mp hw
    obtain ⟨j', heq, hrow'⟩ := matches_opcodeRow_iff.mp hw'
    rw [← hrow, ← hrow', encode_injective heq]

/-- Settles O5: the decoder evaluated on the twelve words. -/
theorem sampleWordsDecode : Obligations.SampleWordsDecode := by
  unfold Obligations.SampleWordsDecode
  decide

end Sys2Proof.Machine
end

section
/-! PROOFS. The statements of 40_frame_builder.md: the callsign check, the address bytes, the last-address bit, and the CRC (R69 to R76). -/

namespace Sys2Proof.Machine

/-! ### O23: the callsign check (R69) -/

/-- Character field CHi of an entry, for i < 6: four in ADDR_LO, then two in ADDR_HI (R33 10_state.md). -/
def AddrEntry.charField (e : AddrEntry) (i : Nat) : Byte :=
  if i < 4 then e.lo.extractLsb' (8 * i) 8 else e.hi.extractLsb' (8 * (i - 4)) 8

theorem AddrEntry.chars_eq_map (e : AddrEntry) : e.chars = (List.range 6).map e.charField := rfl

@[simp] theorem AddrEntry.chars_length (e : AddrEntry) : e.chars.length = 6 := rfl

theorem AddrEntry.mem_chars_take {e : AddrEntry} {n : Nat} {c : Byte} (hn : n ≤ 6) :
    c ∈ e.chars.take n ↔ ∃ i, i < n ∧ e.charField i = c := by
  simp [e.chars_eq_map, ← List.map_take, List.take_range, hn]

theorem AddrEntry.mem_chars_drop {e : AddrEntry} {n : Nat} {c : Byte} :
    c ∈ e.chars.drop n ↔ ∃ i, n ≤ i ∧ i < 6 ∧ e.charField i = c := by
  simp only [e.chars_eq_map, ← List.map_drop, List.range_eq_range', List.drop_range', List.mem_map, List.mem_range'_1]
  exact exists_congr fun i => by rw [← and_assoc]; exact and_congr_left fun _ => by omega

theorem legalChar_iff (c : Byte) :
    legalChar c = true ↔ (0x30 ≤ c.toNat ∧ c.toNat ≤ 0x39) ∨ (0x41 ≤ c.toNat ∧ c.toNat ≤ 0x5A) := by
  simp [legalChar]

/-- A list splits into a nonempty `p` part and a `q` part exactly when its longest leading `p` part gives such a split. -/
theorem takeWhile_dropWhile_split_iff {α : Type} (p q : α → Bool) (l : List α) :
    (1 ≤ (l.takeWhile p).length ∧ (l.dropWhile p).all q = true)
      ↔ ∃ n, 1 ≤ n ∧ n ≤ l.length ∧ (∀ a ∈ l.take n, p a = true) ∧ ∀ a ∈ l.drop n, q a = true := by
  constructor
  · rintro ⟨hlen, hall⟩
    have hl : l.takeWhile p ++ l.dropWhile p = l := List.takeWhile_append_dropWhile
    have htake : l.take (l.takeWhile p).length = l.takeWhile p := (congrArg (List.take _) hl).symm.trans List.take_left
    have hdrop : l.drop (l.takeWhile p).length = l.dropWhile p := (congrArg (List.drop _) hl).symm.trans List.drop_left
    refine ⟨_, hlen, (List.takeWhile_prefix p).length_le, ?_, ?_⟩
    · rw [htake]; exact fun a ha => List.mem_takeWhile_imp ha
    · rw [hdrop]; exact List.all_eq_true.mp hall
  · rintro ⟨n, hpos, hle, hp, hq⟩
    rw [← List.take_append_drop n l, List.takeWhile_append_of_pos hp, List.dropWhile_append_of_pos hp]
    refine ⟨by simp; omega, List.all_eq_true.mpr fun a ha => hq a ?_⟩
    exact (List.dropWhile_sublist p).subset ha

/-- Settles O23: some split exists exactly when the one after the longest legal lead is good. -/
theorem callsignCheckMeaning : Obligations.CallsignCheckMeaning := by
  intro e
  have hsplit := takeWhile_dropWhile_split_iff legalChar (· == 0x20#8) e.chars
  simp only [AddrEntry.callOk, Bool.and_eq_true, decide_eq_true_eq, hsplit, e.chars_length]
  refine exists_congr fun n => and_congr_right fun _ => and_congr_right fun hn => and_congr ?legal ?spaces
  case legal =>
    simp only [AddrEntry.mem_chars_take hn, legalChar_iff]
    exact ⟨fun h i hi => h _ ⟨i, hi, rfl⟩, by rintro h _ ⟨i, hi, rfl⟩; exact h i hi⟩
  case spaces =>
    simp only [AddrEntry.mem_chars_drop, beq_iff_eq]
    exact ⟨fun h i hi hi' => h _ ⟨i, hi, hi', rfl⟩, by rintro h _ ⟨i, hi, hi', rfl⟩; exact h i hi hi'⟩

/-! ### O24: the address bytes (R71) -/

/-- The seventh byte of an address: 0x60, the SSID shifted left and `last` (R71). -/
def AddrEntry.ssidByte (e : AddrEntry) (last : Bool) : Byte := 0x60#8 ||| (e.ssid <<< 1) ||| (if last then 1#8 else 0#8)

theorem addrBytes_getD_char (e : AddrEntry) (last : Bool) {i : Nat} (hi : i < 6) :
    (addrBytes e last).getD i 0#8 = e.charField i <<< 1 := by
  simp [addrBytes, e.chars_eq_map, List.getElem?_append_left, hi]

theorem addrBytes_getD_ssid (e : AddrEntry) (last : Bool) : (addrBytes e last).getD 6 0#8 = e.ssidByte last := rfl

@[simp] theorem AddrEntry.ssidByte_last (e : AddrEntry) (last : Bool) : (e.ssidByte last).getLsbD 0 = last := by
  cases last <;> simp [ssidByte]

/-- Above bit 0, the seventh byte is 0x60 over the shifted SSID. -/
theorem AddrEntry.ssidByte_getLsbD_succ (e : AddrEntry) (last : Bool) {i : Nat} (hi : i < 7) :
    (e.ssidByte last).getLsbD (i + 1) = ((0x30#8).getLsbD i || e.ssid.getLsbD i) := by
  cases last <;> interval_cases i <;> simp [ssidByte]

theorem AddrEntry.ssid_getLsbD_of_ssidOk {e : AddrEntry} (h : e.ssidOk = true) {i : Nat} (hi : 4 ≤ i) : e.ssid.getLsbD i = false := by
  have hlt : e.ssid.toNat < 2 ^ i :=
    calc e.ssid.toNat < 2 ^ 4 := by simp [ssidOk] at h; omega
      _ ≤ 2 ^ i := Nat.pow_le_pow_right (by decide) hi
  exact Nat.testBit_lt_two_pow hlt

/-- Settles O24: a character byte is a left shift, and a legal SSID reaches only bits 4:1 of the seventh byte. -/
theorem addressBytesLayout : Obligations.AddressBytesLayout := by
  intro e last h
  refine ⟨addrBytes_length e last, ?chars, ?ssid⟩
  case chars =>
    intro i hi
    rw [addrBytes_getD_char e last hi, BitVec.toNat_shiftLeft, Nat.shiftLeft_eq, ← apply_ite BitVec.toNat]
    rfl
  case ssid =>
    rw [addrBytes_getD_ssid]
    refine ⟨?_, ?_, ?_, ?_, e.ssidByte_last last⟩
    · rw [e.ssidByte_getLsbD_succ last (by decide : 6 < 7), e.ssid_getLsbD_of_ssidOk h (by decide : 4 ≤ 6)]; rfl
    · rw [e.ssidByte_getLsbD_succ last (by decide : 5 < 7)]; rfl
    · rw [e.ssidByte_getLsbD_succ last (by decide : 4 < 7)]; rfl
    · ext i hi
      have hlow : (0x30#8).getLsbD i = false := by interval_cases i <;> rfl
      rw [BitVec.getElem_extractLsb', Nat.add_comm 1 i, e.ssidByte_getLsbD_succ last (by omega), hlow, Bool.false_or]
      simp [AddrEntry.ssid, show i < 8 by omega]

/-! ### O25: the last-address bit (R72) -/

/-- In a concatenation of pieces of `m` elements, index `m * k + i` falls on element `i` of piece `k`. -/
theorem getElem?_flatMap_of_length {α β : Type} {f : α → List β} {m : Nat} (hf : ∀ a, (f a).length = m) (l : List α) {k i : Nat}
    (hi : i < m) : (l.flatMap f)[m * k + i]? = l[k]?.bind fun a => (f a)[i]? := by
  induction l generalizing k with
  | nil => simp
  | cons a l ih =>
    cases k with
    | zero => simp [List.getElem?_append_left, hf, hi]
    | succ k =>
      rw [List.flatMap_cons, List.getElem?_append_right (by rw [hf, Nat.mul_succ]; omega), hf,
        show m * (k + 1) + i - m = m * k + i by rw [Nat.mul_succ]; omega, ih, List.getElem?_cons_succ]

/-- Byte `i` of address `k` in the frame. -/
theorem State.buildFrame_getD_addr (s : State) {k i : Nat} (hk : k < s.regs.nAddr) (hi : i < 7) :
    s.buildFrame.getD (7 * k + i) 0#8 = (addrBytes (s.regs.entry k) (k + 1 == s.regs.nAddr)).getD i 0#8 := by
  have hlen : 7 * k + i < s.regs.addrField.length := by rw [Regs.addrField_length]; omega
  have haddr : s.regs.addrField[7 * k + i]? = (addrBytes (s.regs.entry k) (k + 1 == s.regs.nAddr))[i]? := by
    rw [Regs.addrField, getElem?_flatMap_of_length (fun _ => addrBytes_length _ _) _ hi, List.getElem?_range hk, Option.bind_some]
  simp only [List.getD_eq_getElem?_getD, State.buildFrame, withFcs, State.frameBody, List.append_assoc,
    List.getElem?_append_left hlen, haddr]

theorem addrBytes_lowBit (e : AddrEntry) (last : Bool) {i : Nat} (hi : i < 7) :
    ((addrBytes e last).getD i 0#8).getLsbD 0 = (decide (i = 6) && last) := by
  obtain hi | rfl : i < 6 ∨ i = 6 := by omega
  · simp [-List.getD_eq_getElem?_getD, addrBytes_getD_char e last hi, hi.ne]
  · rw [addrBytes_getD_ssid, AddrEntry.ssidByte_last]; rfl

/-- Settles O25: only a seventh byte has low bit `last`, and `last` is set for entry 1 + NDIGI alone. -/
theorem lastBitOnExactlyOneAddress : Obligations.LastBitOnExactlyOneAddress := by
  intro s k i hk hi
  rw [s.buildFrame_getD_addr hk hi, addrBytes_lowBit _ _ hi, Bool.decide_and]
  congr 1
  rw [Bool.eq_iff_iff, beq_iff_eq, decide_eq_true_eq, Regs.nAddr]
  omega

/-! ### O26: the residue of the CRC (R76), by linearity of its step -/

/-- What a CRC step adds to the shifted register when the bit it shifts out differs from the data bit, or not (R74). -/
def crcFeedback (t : Bool) : BitVec 16 := if t then 0x8408#16 else 0#16

theorem crcStep_eq_shift_xor_feedback (x : BitVec 16) (b : Bool) : crcStep x b = x >>> 1 ^^^ crcFeedback (x.getLsbD 0 ^^ b) := by
  unfold crcStep crcFeedback
  split
  · rfl
  · exact BitVec.xor_zero.symm

theorem crcFeedback_xor (t u : Bool) : crcFeedback (t ^^ u) = crcFeedback t ^^^ crcFeedback u := by
  cases t <;> cases u <;> rfl

/-- The CRC step is linear over XOR: its shift and its feedback are. -/
theorem crcStep_xor (x y : BitVec 16) (a b : Bool) : crcStep (x ^^^ y) (a ^^ b) = crcStep x a ^^^ crcStep y b := by
  have hbit : ((x ^^^ y).getLsbD 0 ^^ (a ^^ b)) = ((x.getLsbD 0 ^^ a) ^^ (y.getLsbD 0 ^^ b)) := by
    rw [BitVec.getLsbD_xor, Bool.xor_assoc, Bool.xor_assoc, Bool.xor_left_comm a]
  simp only [crcStep_eq_shift_xor_feedback, hbit, crcFeedback_xor, BitVec.ushiftRight_xor_distrib]
  ac_rfl

/-- Complemented bits add to the register what as many ones leave from 0. -/
theorem foldl_crcStep_map_not (bits : List Bool) (x y : BitVec 16) :
    (bits.map (!·)).foldl crcStep (x ^^^ y) = bits.foldl crcStep x ^^^ (List.replicate bits.length true).foldl crcStep y := by
  induction bits generalizing x y with
  | nil => rfl
  | cons b bits ih =>
    have hstep : crcStep (x ^^^ y) (!b) = crcStep x b ^^^ crcStep y true := by rw [← crcStep_xor, Bool.xor_true]
    simp only [List.map_cons, List.foldl_cons, List.length_cons, List.replicate_succ, hstep, ih]

/-- Fed its own bits, the register only shifts. -/
theorem foldl_crcStep_own_bits (c : BitVec 16) (n : Nat) : ((List.range n).map c.getLsbD).foldl crcStep c = c >>> n := by
  induction n with
  | zero => simp
  | succ n ih =>
    rw [List.range_succ, List.map_append, List.foldl_append, ih]
    simp [crcStep, BitVec.shiftRight_add]

/-- The two FCS bytes, in line order, are the complemented bits of the register. -/
theorem lineOrder_fcsBytes (c : BitVec 16) :
    lineOrder [(c ^^^ 0xFFFF#16).extractLsb' 0 8, (c ^^^ 0xFFFF#16).extractLsb' 8 8] = ((List.range 16).map c.getLsbD).map (!·) := by
  simp [lineOrder, byteBits, List.range_succ]

theorem crcReg_append (a b : List Byte) : crcReg (a ++ b) = (lineOrder b).foldl crcStep (crcReg a) := by
  simp [crcReg, lineOrder]

theorem crcReg_withFcs (body : List Byte) : crcReg (withFcs body) = 0xF0B8#16 := by
  set c := crcReg body
  calc crcReg (withFcs body)
      = (((List.range 16).map c.getLsbD).map (!·)).foldl crcStep (c ^^^ 0#16) := by
        rw [withFcs, crcReg_append, fcs16, lineOrder_fcsBytes, BitVec.xor_zero]
    _ = c >>> 16 ^^^ (List.replicate 16 true).foldl crcStep 0#16 := by
        rw [foldl_crcStep_map_not, foldl_crcStep_own_bits, List.length_map, List.length_range]
    _ = 0xF0B8#16 := by rw [BitVec.ushiftRight_eq_zero (Nat.le_refl 16)]; decide +kernel

/-- Settles O26: the register cancels against the bits of its own complement, and sixteen ones from 0 remain. -/
theorem fcsResidueIsConstant : Obligations.FcsResidueIsConstant :=
  ⟨crcReg_withFcs, fun s => crcReg_withFcs s.frameBody⟩

/-! ### O27: the check value (R74, R75) -/

/-- Settles O27: the register evaluated on the nine bytes. -/
theorem crcCheckValue : Obligations.CrcCheckValue := by
  unfold Obligations.CrcCheckValue
  decide +kernel

end Sys2Proof.Machine
end

section
/-! PROOFS. The statements of 41_serializer_nrzi.md: bit-stuffing, the line, NRZI (R77 to R83), and the symmetry of NRZI and tones (R84). -/

namespace Sys2Proof.Machine

/-! ### The equations of `stuff`, `stuffCount` and `unstuff`, a bit at a time (R78, R81 c) -/

@[simp] theorem stuff_false (c : Nat) (bs : List Bool) : stuff c (false :: bs) = false :: stuff 0 bs := rfl

@[simp] theorem stuff_fifth_one (bs : List Bool) : stuff 4 (true :: bs) = true :: false :: stuff 0 bs := rfl

theorem stuff_one {c : Nat} (hc : c ≠ 4) (bs : List Bool) : stuff c (true :: bs) = true :: stuff (c + 1) bs := by
  simp [stuff, hc]

@[simp] theorem stuffCount_false (c : Nat) (bs : List Bool) : stuffCount c (false :: bs) = stuffCount 0 bs := rfl

@[simp] theorem stuffCount_fifth_one (bs : List Bool) : stuffCount 4 (true :: bs) = stuffCount 0 bs + 1 := rfl

theorem stuffCount_one {c : Nat} (hc : c ≠ 4) (bs : List Bool) : stuffCount c (true :: bs) = stuffCount (c + 1) bs := by
  simp [stuffCount, hc]

@[simp] theorem unstuff_five (b : Bool) (bs : List Bool) : unstuff 5 (b :: bs) = unstuff 0 bs := rfl

theorem unstuff_false {c : Nat} (hc : c ≠ 5) (bs : List Bool) : unstuff c (false :: bs) = false :: unstuff 0 bs := by
  simp [unstuff, hc]

theorem unstuff_one {c : Nat} (hc : c ≠ 5) (bs : List Bool) : unstuff c (true :: bs) = true :: unstuff (c + 1) bs := by
  simp [unstuff, hc]

/-- The induction of BIT-STUFF: the ones counter stays below 5, and only the fifth 1 in a row is a case of its own (R78). -/
theorem stuff_induction {P : (c : Nat) → List Bool → c < 5 → Prop} (nil : ∀ c hc, P c [] hc)
    (zero : ∀ c bs hc, P 0 bs (by decide) → P c (false :: bs) hc)
    (fifth : ∀ bs, P 0 bs (by decide) → P 4 (true :: bs) (by decide))
    (one : ∀ c bs, (hlt : c < 4) → P (c + 1) bs (Nat.succ_lt_succ hlt) → P c (true :: bs) (Nat.lt_succ_of_lt hlt))
    (c : Nat) (bs : List Bool) (hc : c < 5) : P c bs hc := by
  induction bs generalizing c with
  | nil => exact nil c hc
  | cons b bs ih =>
    cases b with
    | false => exact zero c bs hc (ih 0 (by decide))
    | true =>
      rcases Nat.lt_succ_iff_lt_or_eq.mp hc with hlt | rfl
      · exact one c bs hlt (ih (c + 1) (by omega))
      · exact fifth bs (ih 0 (by decide))

/-! ### O28: no six 1s in DATA (R81 a) -/

@[simp] theorem hasSixOnes_false (r : Nat) (bs : List Bool) : hasSixOnes r (false :: bs) = hasSixOnes 0 bs := rfl

@[simp] theorem hasSixOnes_true (r : Nat) (bs : List Bool) :
    hasSixOnes r (true :: bs) = ((r + 1 == 6) || hasSixOnes (r + 1) bs) := rfl

/-- The run-time check of R134 finds nothing in stuffed bits. -/
theorem hasSixOnes_stuff (c : Nat) (bs : List Bool) (hc : c < 5) : hasSixOnes c (stuff c bs) = false := by
  induction c, bs, hc using stuff_induction with
  | nil => rfl
  | zero c bs hc ih => simpa using ih
  | fifth bs ih => simpa using ih
  | one c bs hlt ih =>
    have hrun : (c + 1 == 6) = false := beq_eq_false_iff_ne.mpr (by omega)
    rw [stuff_one (Nat.ne_of_lt hlt), hasSixOnes_true, ih, hrun, Bool.or_false]

theorem hasSixOnes_dataBits (frame : List Byte) : hasSixOnes 0 (dataBits frame) = false :=
  hasSixOnes_stuff 0 (lineOrder frame) (by decide)

/-- The check finds six 1s wherever they stand. -/
theorem hasSixOnes_of_append (p q : List Bool) (r : Nat) (hr : r < 6) :
    hasSixOnes r (p ++ (List.replicate 6 true ++ q)) = true := by
  induction p generalizing r with
  | nil => interval_cases r <;> rfl
  | cons b p ih =>
    cases b with
    | false => exact ih 0 (by decide)
    | true =>
      rw [List.cons_append, hasSixOnes_true, Bool.or_eq_true]
      by_cases hlast : r = 5
      · exact .inl (by simp [hlast])
      · exact .inr (ih (r + 1) (by omega))

theorem hasSixOnes_of_infix {l : List Bool} (h : List.replicate 6 true <:+: l) : hasSixOnes 0 l = true := by
  obtain ⟨p, q, rfl⟩ := h
  rw [List.append_assoc]
  exact hasSixOnes_of_append p q 0 (by decide)

/-- Settles O28: the check of R134 would find the six 1s, and it finds none in stuffed bits. -/
theorem stuffedDataHasNoSixOnes : Obligations.StuffedDataHasNoSixOnes := by
  intro frame hsix
  have hfound := hasSixOnes_of_infix hsix
  rw [hasSixOnes_dataBits] at hfound
  contradiction

/-! ### O29: six 1s and the flag pattern in LINE (R81 b) -/

/-- Six 1s stand in `l` from position `i` on. -/
def SixOnesAt (l : List Bool) (i : Nat) : Prop := ∀ k, k < 6 → l[i + k]? = some true

theorem sixOnesAt_of_take_drop {l : List Bool} {i : Nat} (h : (l.drop i).take 6 = List.replicate 6 true) : SixOnesAt l i := by
  intro k hk
  rw [← List.getElem?_drop, ← List.getElem?_take_of_lt hk, h, List.getElem?_replicate_of_lt hk]

theorem SixOnesAt.take_drop {l : List Bool} {i : Nat} (h : SixOnesAt l i) : (l.drop i).take 6 = List.replicate 6 true := by
  refine List.ext_getElem? fun k => ?_
  by_cases hk : k < 6
  · rw [List.getElem?_take_of_lt hk, List.getElem?_drop, h k hk, List.getElem?_replicate_of_lt hk]
  · simp [hk]

theorem SixOnesAt.isInfix {l : List Bool} {i : Nat} (h : SixOnesAt l i) : List.replicate 6 true <:+: l := by
  rw [← h.take_drop]
  exact (List.take_prefix 6 _).isInfix.trans (List.drop_suffix i l).isInfix

/-- Six 1s do not reach over a position that holds no 1. -/
theorem SixOnesAt.avoids {l : List Bool} {i j : Nat} (h : SixOnesAt l i) (hj : l[j]? ≠ some true) : j < i ∨ i + 5 < j := by
  by_contra hbetween
  apply hj
  have hone := h (j - i) (by omega)
  rwa [Nat.add_sub_cancel' (by omega)] at hone

theorem SixOnesAt.of_append_left {a l : List Bool} {i : Nat} (h : SixOnesAt (a ++ l) i) (hi : i + 5 < a.length) : SixOnesAt a i := by
  intro k hk
  rw [← List.getElem?_append_left (l₂ := l) (by omega)]
  exact h k hk

theorem SixOnesAt.of_append_right {a l : List Bool} {i : Nat} (h : SixOnesAt (a ++ l) i) (hi : a.length ≤ i) :
    SixOnesAt l (i - a.length) := by
  intro k hk
  rw [← h k hk, List.getElem?_append_right (by omega), Nat.sub_add_comm hi]

theorem flags_succ (n : Nat) : flags (n + 1) = flagBits ++ flags n := by
  simp [flags, List.replicate_succ]

/-- A flag starts and ends with 0, so six 1s beside its own lie wholly after it (R77). -/
theorem SixOnesAt.flagBits_append {l : List Bool} {i : Nat} (h : SixOnesAt (flagBits ++ l) i) :
    i = 1 ∨ (8 ≤ i ∧ SixOnesAt l (i - 8)) := by
  have hstart : 0 < i ∨ i + 5 < 0 := h.avoids (by simp [flagBits, byteBits, List.range_succ])
  have hend : 7 < i ∨ i + 5 < 7 := h.avoids (by simp [flagBits, byteBits, List.range_succ])
  rcases hend with hafter | hinside
  · exact .inr ⟨hafter, h.of_append_right (a := flagBits) hafter⟩
  · exact .inl (by omega)

theorem SixOnesAt.flags_append {l : List Bool} {n i : Nat} (h : SixOnesAt (flags n ++ l) i) :
    (∃ k, k < n ∧ i = 8 * k + 1) ∨ (8 * n ≤ i ∧ SixOnesAt l (i - 8 * n)) := by
  induction n generalizing i with
  | zero => exact .inr ⟨Nat.zero_le i, h⟩
  | succ n ih =>
    rw [flags_succ, List.append_assoc] at h
    rcases h.flagBits_append with hfirst | ⟨h8, hrest⟩
    · exact .inl ⟨0, Nat.succ_pos n, hfirst⟩
    · rcases ih hrest with ⟨k, hk, hi⟩ | ⟨hle, hl⟩
      · exact .inl ⟨k + 1, by omega, by omega⟩
      · exact .inr ⟨by omega, by rwa [show i - 8 * (n + 1) = i - 8 - 8 * n by omega]⟩

theorem not_sixOnesAt_dataBits (frame : List Byte) (i : Nat) : ¬ SixOnesAt (dataBits frame) i :=
  fun h => stuffedDataHasNoSixOnes frame h.isInfix

theorem flags_head_ne_one (n : Nat) : (flags n)[0]? ≠ some true := by
  cases n with
  | zero => simp [flags]
  | succ n => simp [flags_succ, flagBits, byteBits, List.range_succ]

/-- DATA holds no six 1s, and they cannot reach over the 0 that starts the postamble. -/
theorem SixOnesAt.dataBits_append_flags {frame : List Byte} {n i : Nat} (h : SixOnesAt (dataBits frame ++ flags n) i) :
    ∃ k, k < n ∧ i = (dataBits frame).length + 8 * k + 1 := by
  have hborder : (dataBits frame ++ flags n)[(dataBits frame).length]? ≠ some true := by
    rw [List.getElem?_append_right (Nat.le_refl _), Nat.sub_self]
    exact flags_head_ne_one n
  rcases h.avoids hborder with hafter | hinside
  · have hpost : SixOnesAt (flags n ++ []) (i - (dataBits frame).length) := by
      rw [List.append_nil]
      exact h.of_append_right (by omega)
    rcases hpost.flags_append with ⟨k, hk, hi⟩ | ⟨-, hnil⟩
    · exact ⟨k, hk, by omega⟩
    · exact absurd (hnil 0 (by decide)) (by simp)
  · exact absurd (h.of_append_left hinside) (not_sixOnesAt_dataBits frame i)

theorem SixOnesAt.inside_flag {npre npost : Nat} {frame : List Byte} {i : Nat} (h : SixOnesAt (lineBits npre npost frame) i) :
    ∃ j, flagStart npre (dataBits frame).length npost j ∧ i = j + 1 := by
  rw [lineBits, List.append_assoc] at h
  rcases h.flags_append with ⟨k, hk, hi⟩ | ⟨hle, hrest⟩
  · exact ⟨8 * k, .inl ⟨k, hk, rfl⟩, hi⟩
  · obtain ⟨k, hk, hi⟩ := hrest.dataBits_append_flags
    exact ⟨8 * npre + (dataBits frame).length + 8 * k, .inr ⟨k, hk, rfl⟩, by omega⟩

/-- The flag pattern holds its six 1s one bit after its start. -/
theorem sixOnesAt_of_flag_pattern {l : List Bool} {i : Nat}
    (h : (l.drop i).take 8 = [false, true, true, true, true, true, true, false]) : SixOnesAt l (i + 1) := by
  apply sixOnesAt_of_take_drop
  calc (l.drop (i + 1)).take 6 = (((l.drop i).take 8).drop 1).take 6 := by simp [List.drop_take, List.take_take]
    _ = List.replicate 6 true := by rw [h]; rfl

/-- Settles O29: six 1s lie inside a flag, part by part of LINE, and the pattern holds six 1s. -/
theorem flagPatternOnlyAtFlags : Obligations.FlagPatternOnlyAtFlags := by
  intro npre npost frame i
  refine ⟨fun h => (sixOnesAt_of_take_drop h).inside_flag, fun h => ?_⟩
  obtain ⟨j, hj, hij⟩ := (sixOnesAt_of_flag_pattern h).inside_flag
  rwa [Nat.succ.inj hij]

/-! ### O30: unstuffing (R81 c) -/

theorem unstuff_stuff (c : Nat) (bs : List Bool) (hc : c < 5) : unstuff c (stuff c bs) = bs := by
  induction c, bs, hc using stuff_induction with
  | nil => rfl
  | zero c bs hc ih => rw [stuff_false, unstuff_false (by omega), ih]
  | fifth bs ih => rw [stuff_fifth_one, unstuff_one (by decide), unstuff_five, ih]
  | one c bs hlt ih => rw [stuff_one (Nat.ne_of_lt hlt), unstuff_one (by omega), ih]

/-- Settles O30: the unstuffing counter follows the stuffing counter, and meets 5 exactly at the stuffed bit. -/
theorem unstuffInvertsStuffing : Obligations.UnstuffInvertsStuffing :=
  fun frame => unstuff_stuff 0 (lineOrder frame) (by decide)

/-! ### O31: the length of LINE (R80) -/

theorem stuff_length (c : Nat) (bs : List Bool) (hc : c < 5) : (stuff c bs).length = bs.length + stuffCount c bs := by
  induction c, bs, hc using stuff_induction with
  | nil => rfl
  | zero c bs hc ih =>
    simp only [stuff_false, stuffCount_false, List.length_cons, ih]
    omega
  | fifth bs ih =>
    simp only [stuff_fifth_one, stuffCount_fifth_one, List.length_cons, ih]
    omega
  | one c bs hlt ih =>
    simp only [stuff_one (Nat.ne_of_lt hlt), stuffCount_one (Nat.ne_of_lt hlt), List.length_cons, ih]
    omega

/-- Each stuffed bit uses up five 1s, counting those before. -/
theorem five_mul_stuffCount_le (c : Nat) (bs : List Bool) (hc : c < 5) : 5 * stuffCount c bs ≤ c + bs.length := by
  induction c, bs, hc using stuff_induction with
  | nil => exact Nat.zero_le _
  | zero c bs hc ih =>
    rw [stuffCount_false, List.length_cons]
    omega
  | fifth bs ih =>
    rw [stuffCount_fifth_one, List.length_cons]
    omega
  | one c bs hlt ih =>
    rw [stuffCount_one (Nat.ne_of_lt hlt), List.length_cons]
    omega

theorem stuffCount_lineOrder_le (frame : List Byte) : stuffCount 0 (lineOrder frame) ≤ 8 * frame.length / 5 := by
  have h5 := five_mul_stuffCount_le 0 (lineOrder frame) (by decide)
  rw [lineOrder_length] at h5
  omega

theorem lineBits_length (npre npost : Nat) (frame : List Byte) :
    (lineBits npre npost frame).length = 8 * npre + 8 * frame.length + stuffCount 0 (lineOrder frame) + 8 * npost := by
  simp only [lineBits, dataBits, List.length_append, flags_length, stuff_length 0 _ (by decide : 0 < 5), lineOrder_length]
  omega

/-- Settles O31: the lengths of the parts add up, and each stuffed bit uses up five of the frame's bits. -/
theorem lineLengthFormula : Obligations.LineLengthFormula := by
  intro npre npost frame
  have hS := stuffCount_lineOrder_le frame
  refine ⟨lineBits_length npre npost frame, hS, fun hpre hpost hlen => ?_⟩
  rw [lineBits_length]
  omega

/-! ### O32: NRZI decoding (R82, R83) -/

theorem nrziNext_eq_iff (lvl b : Bool) : nrziNext lvl b = lvl ↔ b = true := by
  cases b <;> cases lvl <;> decide

theorem nrziNext_not (lvl b : Bool) : nrziNext (!lvl) b = !nrziNext lvl b := by cases b <;> rfl

theorem nrzi_map_not (lvl : Bool) (line : List Bool) : (nrzi lvl line).map (!·) = nrzi (!lvl) line := by
  induction line generalizing lvl with
  | nil => rfl
  | cons b line ih => simp only [nrzi, List.map_cons, ih, nrziNext_not]

/-- Symbol `i` is the NRZI step on line bit `i` from the symbol before it (R82). -/
theorem nrzi_getD (lvl : Bool) (line : List Bool) (i : Nat) (hi : i < line.length) :
    (nrzi lvl line).getD i false
      = nrziNext (if i = 0 then lvl else (nrzi lvl line).getD (i - 1) false) (line.getD i false) := by
  induction line generalizing lvl i with
  | nil => contradiction
  | cons b line ih =>
    cases i with
    | zero => rfl
    | succ i =>
      have hrest := ih (nrziNext lvl b) i (Nat.lt_of_succ_lt_succ hi)
      cases i with
      | zero => exact hrest
      | succ i => exact hrest

/-- Settles O32: a symbol is the NRZI step from the one before it, which holds the level exactly on a 1. -/
theorem nrziDecodeRecoversLine : Obligations.NrziDecodeRecoversLine := by
  intro init line
  refine ⟨nrzi_length init line, fun i hi => ?_, nrzi_map_not init line⟩
  rw [nrzi_getD init line i hi, nrziNext_eq_iff]

/-! ### O36: polarity against level (R82, R84) -/

theorem toneInc_not_not (pol sym : Bool) : toneInc (!pol) (!sym) = toneInc pol sym := by
  simp [toneInc]

theorem afsk_not_map_not (pol : Bool) (phi : BitVec 8) (syms : List Bool) :
    afsk (!pol) phi (syms.map (!·)) = afsk pol phi syms := by
  induction syms generalizing phi with
  | nil => rfl
  | cons sym syms ih => simp only [afsk, List.map_cons, toneInc_not_not, ih]

/-- Settles O36: the inverted level inverts every symbol, and the inverted polarity inverts it back. -/
theorem polarityAndLevelSymmetry : Obligations.PolarityAndLevelSymmetry := by
  intro init pol line
  rw [← nrzi_map_not, afsk_not_map_not]

end Sys2Proof.Machine
end

section
/-! PROOFS. The statements of 42_afsk_dds.md: the DDS phase as a running sum, and the amplitude bounds that follow from it (R84 to R89). -/

namespace Sys2Proof.Machine

/-! ### `sumTo` as a library sum -/

theorem sumTo_eq_sum_range (f : Nat → Int) (n : Nat) : sumTo f n = ∑ i ∈ Finset.range n, f i := by
  induction n with
  | zero => rfl
  | succ n ih => rw [sumTo, ih, Finset.sum_range_succ]

/-- The first `m` terms of a sum may be taken out, when they are all equal. -/
theorem sumTo_add_of_const {f : Nat → Int} {c : Int} {m : Nat} (hc : ∀ i, i < m → f i = c) (n : Nat) :
    sumTo f (m + n) = m * c + sumTo (fun i => f (m + i)) n := by
  have hm : ∑ i ∈ Finset.range m, f i = m * c := by
    rw [Finset.sum_congr rfl fun i hi => hc i (Finset.mem_range.mp hi), Finset.sum_const, Finset.card_range, nsmul_eq_mul]
  rw [sumTo_eq_sum_range, sumTo_eq_sum_range, Finset.sum_range_add, hm]

/-! ### One tone (R85) -/

theorem ddsNext_toNat (inc : Nat) (phi : BitVec 8) : (ddsNext inc phi).toNat = (phi.toNat + inc) % 240 := by
  have hlt : (phi.toNat + inc) % 240 < 2 ^ 8 := by omega
  exact Nat.mod_eq_of_lt hlt

theorem tonePhase_succ_toNat (inc k : Nat) (phi : BitVec 8) :
    (tonePhase inc (k + 1) phi).toNat = (phi.toNat + (k + 1) * inc) % 240 := by
  induction k generalizing phi with
  | zero => rw [tonePhase, tonePhase, ddsNext_toNat, Nat.zero_add, Nat.one_mul]
  | succ k ih => rw [tonePhase, ih, ddsNext_toNat, Nat.mod_add_mod, Nat.add_assoc, Nat.succ_mul (k + 1), Nat.add_comm inc]

/-- Sample `k` of a tone is emitted at the phase after `k + 1` updates: the update comes first. -/
theorem tone_getElem? {inc n k : Nat} (hk : k < n) (phi : BitVec 8) :
    (tone inc n phi)[k]? = some (ddsOut (tonePhase inc (k + 1) phi)) := by
  induction n generalizing k phi with
  | zero => contradiction
  | succ n ih =>
    cases k with
    | zero => rfl
    | succ k => exact ih (Nat.lt_of_succ_lt_succ hk) (ddsNext inc phi)

/-! ### The phase of every sample of a line -/

/-- The increment of sample `i` of a line (R84): the tone of symbol `i / 40`. -/
def sampleInc (pol : Bool) (syms : List Bool) (i : Nat) : Int := toneInc pol (syms.getD (i / 40) false)

theorem sampleInc_eq (pol : Bool) (syms : List Bool) (i : Nat) :
    sampleInc pol syms i = if syms.getD (i / 40) false ^^ pol then 6 else 11 := by
  rw [sampleInc, toneInc, Nat.cast_ite]; rfl

theorem sampleInc_head (pol sym : Bool) (syms : List Bool) {i : Nat} (hi : i < 40) :
    sampleInc pol (sym :: syms) i = toneInc pol sym := by
  rw [sampleInc, Nat.div_eq_of_lt hi, List.getD_cons_zero]

theorem sampleInc_tail (pol sym : Bool) (syms : List Bool) (i : Nat) :
    sampleInc pol (sym :: syms) (40 + i) = sampleInc pol syms i := by
  rw [sampleInc, Nat.add_div_left i (by decide), List.getD_cons_succ, sampleInc]

/-- The sum over the first `m` samples of a symbol, then over those of the symbols after it. -/
theorem sumTo_sampleInc_of_le (pol sym : Bool) (syms : List Bool) {m : Nat} (hm : m ≤ 40) :
    sumTo (sampleInc pol (sym :: syms)) m = m * toneInc pol sym := by
  have h := sumTo_add_of_const (fun i hi => sampleInc_head pol sym syms (Nat.lt_of_lt_of_le hi hm)) 0
  rwa [Nat.add_zero, sumTo, Int.add_zero] at h

theorem sumTo_sampleInc_add (pol sym : Bool) (syms : List Bool) (n : Nat) :
    sumTo (sampleInc pol (sym :: syms)) (40 + n) = 40 * toneInc pol sym + sumTo (sampleInc pol syms) n := by
  rw [sumTo_add_of_const (fun i hi => sampleInc_head pol sym syms hi), funext (sampleInc_tail pol sym syms)]
  rfl

/-- Sample `n` is emitted at the start phase plus the sum of the increments up to and including `n`, modulo 240 (R85): the phase runs on
from symbol to symbol. -/
theorem afsk_getElem? (pol : Bool) (phi : BitVec 8) (syms : List Bool) {n : Nat} (hn : n < 40 * syms.length) :
    ∃ psi : BitVec 8, (afsk pol phi syms)[n]? = some (ddsOut psi)
      ∧ (psi.toNat : Int) = (phi.toNat + sumTo (sampleInc pol syms) (n + 1)) % 240 := by
  induction syms generalizing phi n with
  | nil => contradiction
  | cons sym syms ih =>
    have hlen := tone_length (toneInc pol sym) 40 phi
    rw [afsk, show Config.sps = 40 from rfl]
    rcases Nat.lt_or_ge n 40 with hlt | hge
    · refine ⟨tonePhase (toneInc pol sym) (n + 1) phi, ?_, ?_⟩
      · rw [List.getElem?_append_left (by rwa [hlen]), tone_getElem? hlt]
      · rw [tonePhase_succ_toNat, sumTo_sampleInc_of_le pol sym syms hlt]
        push_cast; rfl
    · obtain ⟨m, rfl⟩ := Nat.exists_eq_add_of_le hge
      obtain ⟨psi, hget, hpsi⟩ := ih (tonePhase (toneInc pol sym) 40 phi) (n := m) (by rw [List.length_cons] at hn; omega)
      refine ⟨psi, ?_, ?_⟩
      · rw [List.getElem?_append_right (by rwa [hlen]), hlen, Nat.add_sub_cancel_left, hget]
      · rw [hpsi, tonePhase_succ_toNat, Nat.add_assoc, sumTo_sampleInc_add]
        omega

/-! ### The sine table (R86) -/

theorem sin240_bounds : ∀ p, p < 240 → -32767 ≤ sin240 p ∧ sin240 p ≤ 32767 := by decide +kernel

/-- Six or eleven phase units change the table's entry by at most 9403, over the wrap at 240 too (R89). -/
theorem sin240_step : ∀ p, p < 240 →
    |sin240 ((p + 6) % 240) - sin240 p| ≤ 9403 ∧ |sin240 ((p + 11) % 240) - sin240 p| ≤ 9403 := by decide +kernel

/-- Every entry is an s16 (R87). -/
theorem ddsOut_toInt {psi : BitVec 8} (h : psi.toNat < 240) : (ddsOut psi).toInt = sin240 psi.toNat := by
  obtain ⟨hlo, hhi⟩ := sin240_bounds psi.toNat h
  exact BitVec.toInt_ofInt_eq_self (by decide) (by omega) (by omega)

/-! ### O35: the audio as a running sum -/

/-- The running sum of the increments up to and including sample `n`, modulo 240: the phase of sample `n` (R85). -/
def samplePhase (pol : Bool) (syms : List Bool) (n : Nat) : Nat := (sumTo (sampleInc pol syms) (n + 1) % 240).toNat

theorem samplePhase_lt (pol : Bool) (syms : List Bool) (n : Nat) : samplePhase pol syms n < 240 := by
  rw [samplePhase]; omega

theorem samplePhase_succ (pol : Bool) (syms : List Bool) (n : Nat) :
    samplePhase pol syms (n + 1) = (samplePhase pol syms n + toneInc pol (syms.getD ((n + 1) / 40) false)) % 240 := by
  rw [samplePhase, samplePhase, sumTo, sampleInc]
  omega

/-- From phase 0, sample `n` is SIN240 at its phase. -/
theorem afsk_getD_toInt (pol : Bool) (syms : List Bool) {n : Nat} (hn : n < 40 * syms.length) :
    ((afsk pol 0#8 syms).getD n 0#16).toInt = sin240 (samplePhase pol syms n) := by
  obtain ⟨psi, hget, hpsi⟩ := afsk_getElem? pol 0#8 syms hn
  have hphase : psi.toNat = samplePhase pol syms n := by
    rw [samplePhase, ← Int.toNat_natCast psi.toNat, hpsi, BitVec.toNat_ofNat, Nat.zero_mod, Nat.cast_zero, Int.zero_add]
  rw [List.getD_eq_getElem?_getD, hget, Option.getD_some, ddsOut_toInt (hphase ▸ samplePhase_lt pol syms n), hphase]

/-- Settles O35: sample `n` is the table at its phase, and its phase is the running sum. -/
theorem audioPhaseIsRunningSum : Obligations.AudioPhaseIsRunningSum := by
  intro pol syms n hn
  rw [afsk_getD_toInt pol syms hn, samplePhase, funext (sampleInc_eq pol syms)]

/-! ### O33 and O34: the amplitude bounds (R87, R89) -/

/-- Settles O33: every sample is a table entry, whatever the start phase. -/
theorem audioSamplesBounded : Obligations.AudioSamplesBounded := by
  intro pol phi syms x hx
  obtain ⟨n, hget⟩ := List.mem_iff_getElem?.mp hx
  obtain ⟨hn, -⟩ := List.getElem?_eq_some_iff.mp hget
  obtain ⟨psi, hget', hpsi⟩ := afsk_getElem? pol phi syms (by rwa [afsk_length] at hn)
  have hlt : psi.toNat < 240 := by omega
  obtain rfl : x = ddsOut psi := Option.some.inj (hget.symm.trans hget')
  rw [ddsOut_toInt hlt]
  exact sin240_bounds _ hlt

theorem toneInc_cases (pol sym : Bool) : toneInc pol sym = 6 ∨ toneInc pol sym = 11 := ite_eq_or_eq _ _ _

/-- Settles O34: from one sample to the next the phase moves 6 or 11 units, also where a symbol ends. -/
theorem audioStepsBounded : Obligations.AudioStepsBounded := by
  intro pol syms n hn
  rw [afsk_length] at hn
  obtain ⟨hmark, hspace⟩ := sin240_step _ (samplePhase_lt pol syms n)
  rw [afsk_getD_toInt pol syms hn, afsk_getD_toInt pol syms (Nat.lt_of_succ_lt hn), samplePhase_succ]
  rcases toneInc_cases pol (syms.getD ((n + 1) / 40) false) with hinc | hinc <;> rw [hinc]
  · exact hmark
  · exact hspace

end Sys2Proof.Machine
end

section
/-! PROOFS. The statements of 43_fm_modulator.md: the FM phase as a running sum, its exact step, and the bound on the baseband (R92 to R95). -/

namespace Sys2Proof.Machine

/-- The first term of a sum may be taken out. -/
theorem sumTo_succ_eq_head_add (f : Nat → Int) (n : Nat) : sumTo f (n + 1) = f 0 + sumTo (fun i => f (i + 1)) n := by
  rw [sumTo_eq_sum_range, sumTo_eq_sum_range, Finset.sum_range_succ', Int.add_comm]

/-! ### The accumulator (R92) -/

theorem fmNext_eq_add (k : BitVec 16) (psi : BitVec 32) (x : Half) :
    fmNext k psi x = psi + BitVec.ofInt 32 (x.toInt * (k.toNat : Int)) := by
  rw [fmNext, BitVec.ofInt_add, BitVec.ofInt_natCast, BitVec.ofNat_toNat, BitVec.setWidth_eq]

/-- The step s·K of audio sample `i` (R92). -/
def fmInc (k : BitVec 16) (xs : List Half) (i : Nat) : Int := (xs.getD i 0#16).toInt * (k.toNat : Int)

/-- Baseband sample `n` is emitted at the start phase plus the steps up to and including `n`: the update comes first. -/
theorem fm_getElem? (k : BitVec 16) (psi : BitVec 32) (xs : List Half) {n : Nat} (hn : n < xs.length) :
    (fm k psi xs)[n]? = some (fmOut (psi + BitVec.ofInt 32 (sumTo (fmInc k xs) (n + 1)))) := by
  induction xs generalizing psi n with
  | nil => contradiction
  | cons x xs ih =>
    have hsum : sumTo (fmInc k (x :: xs)) (n + 1) = x.toInt * (k.toNat : Int) + sumTo (fmInc k xs) n :=
      sumTo_succ_eq_head_add _ n
    rw [hsum, BitVec.ofInt_add, ← BitVec.add_assoc, ← fmNext_eq_add]
    cases n with
    | zero => exact congrArg (some ∘ fmOut) (BitVec.add_zero _).symm
    | succ n => exact ih (fmNext k psi x) (Nat.lt_of_succ_lt_succ hn)

/-- Settles O37: from phase 0 the phase of sample `n` is the running sum alone. -/
theorem fmPhaseIsRunningSum : Obligations.FmPhaseIsRunningSum := by
  intro k xs n hn
  refine ⟨_, fm_getElem? k 0#32 xs hn, ?_⟩
  rw [BitVec.zero_add]
  exact fmOut_ofInt _

/-! ### O38: the step (R95) -/

/-- s·K is an s32 for every s16 sample and every u16 K, s = -32768 included. -/
theorem half_mul_bounds (x : Half) (k : BitVec 16) :
    -2 ^ 31 ≤ x.toInt * (k.toNat : Int) ∧ x.toInt * (k.toNat : Int) < 2 ^ 31 := by
  have hk : k.toNat < 2 ^ 16 := k.isLt
  have hlo : -2 ^ 15 * (k.toNat : Int) ≤ x.toInt * k.toNat := Int.mul_le_mul_of_nonneg_right x.le_toInt (Int.natCast_nonneg _)
  have hhi : x.toInt * k.toNat ≤ 2 ^ 15 * (k.toNat : Int) := Int.mul_le_mul_of_nonneg_right x.toInt_lt.le (Int.natCast_nonneg _)
  omega

/-- Settles O38: the step is s·K modulo 2^32, and s·K is an s32. -/
theorem fmStepIsExact : Obligations.FmStepIsExact := by
  intro k psi x
  obtain ⟨hlo, hhi⟩ := half_mul_bounds x k
  rw [fmNext_eq_add, BitVec.add_comm, BitVec.add_sub_cancel]
  exact BitVec.toInt_ofInt_eq_self (by decide) hlo hhi

/-! ### O39: the bound (R93, R94) -/

theorem sin1024_bounds : ∀ j, j < 1024 → -32767 ≤ sin1024 j ∧ sin1024 j ≤ 32767 := by decide +kernel

/-- Settles O39: both components are entries of SIN1024. -/
theorem basebandBounded : Obligations.BasebandBounded := by
  intro psi
  obtain ⟨hre, him⟩ := fmOut_ofInt psi.toInt
  rw [BitVec.ofInt_toInt] at hre him
  obtain ⟨hre_lo, hre_hi⟩ := sin1024_bounds _ (Nat.mod_lt _ (by decide))
  rw [hre, him]
  exact ⟨hre_lo, hre_hi, sin1024_bounds _ (by omega)⟩

end Sys2Proof.Machine
end

section
/-! PROOFS. The statements of 44_fir_interpolator.md: the direct form, the DC gain and the output range of the interpolator (R100 to R104). -/

namespace Sys2Proof.Machine

/-! ### The delay line as a window on the inputs (R98, R101) -/

/-- The delay line when input `k` has been shifted in: input `k` first, then the inputs before it, then the old delay line `d`. -/
def delayAfter {α : Type} (tpp : Nat) (d xs : List α) (k : Nat) : List α := ((xs.take (k + 1)).reverse ++ d).take tpp

theorem map_delayAfter {α β : Type} (f : α → β) (tpp : Nat) (d xs : List α) (k : Nat) :
    (delayAfter tpp d xs k).map f = delayAfter tpp (d.map f) (xs.map f) k := by
  simp [delayAfter, List.map_take]

theorem shiftIn_take (tpp : Nat) (x : Cplx) (d : List Cplx) : shiftIn tpp x (d.take tpp) = (x :: d).take tpp := by
  cases tpp with
  | zero => rfl
  | succ n => simp [shiftIn, List.take_take]

/-- Output `l·k + p` is branch `p` of the delay line with input `k` newest. -/
theorem fir_getElem? (h : Nat → Int) (l tpp : Nat) (d xs : List Cplx) {k p : Nat} (hk : k < xs.length) (hp : p < l) :
    (fir h l tpp (d.take tpp) xs)[l * k + p]? = some (branchOut h l p (delayAfter tpp d xs k)) := by
  induction xs generalizing d k with
  | nil => contradiction
  | cons x xs ih =>
    rw [fir, shiftIn_take]
    cases k with
    | zero => simp [List.getElem?_append_left, branches, hp, delayAfter]
    | succ k =>
      have hidx : l * (k + 1) + p = l + (l * k + p) := by rw [Nat.mul_succ]; omega
      rw [List.getElem?_append_right (by rw [branches_length]; omega), branches_length, hidx, Nat.add_sub_cancel_left,
        ih (x :: d) (Nat.lt_of_succ_lt_succ hk)]
      simp [delayAfter]

/-- From the empty delay line, output `m` is a branch of the delay line with input `m / l` newest. -/
theorem fir_empty_getElem? (h : Nat → Int) {l : Nat} (tpp : Nat) (xs : List Cplx) {m : Nat} (hl : 0 < l) (hm : m < l * xs.length) :
    (fir h l tpp (List.replicate tpp ⟨0#16, 0#16⟩) xs)[m]?
      = some (branchOut h l (m % l) (delayAfter tpp (List.replicate tpp ⟨0#16, 0#16⟩) xs (m / l))) := by
  have hget := fir_getElem? h l tpp (List.replicate tpp ⟨0#16, 0#16⟩) xs (Nat.div_lt_of_lt_mul hm) (Nat.mod_lt m hl)
  rwa [Nat.div_add_mod, List.take_replicate, Nat.min_self] at hget

/-! ### The branch sum as a sum over the delay slots (R100) -/

theorem branchSum_eq_sumTo (h : Nat → Int) (l p : Nat) (xs : List Int) :
    branchSum h l p xs = sumTo (fun j => h (p + j * l) * xs.getD j 0) xs.length := by
  induction xs generalizing p with
  | nil => rfl
  | cons x xs ih =>
    rw [branchSum, ih, List.length_cons, sumTo_succ_eq_head_add]
    simp [Nat.succ_mul, Nat.add_assoc, Nat.add_comm l]

theorem sumTo_congr {f g : Nat → Int} {n : Nat} (h : ∀ i, i < n → f i = g i) : sumTo f n = sumTo g n := by
  rw [sumTo_eq_sum_range, sumTo_eq_sum_range]
  exact Finset.sum_congr rfl fun i hi => h i (Finset.mem_range.mp hi)

/-! ### O40: the direct form (R103) -/

/-- A sum over `n` blocks of `l` terms with only term `p` of each block not 0 is the sum of those terms. -/
theorem sumTo_mul_of_sparse {f : Nat → Int} {l p : Nat} (hp : p < l) (hf : ∀ j i, i < l → i ≠ p → f (l * j + i) = 0) (n : Nat) :
    sumTo f (l * n) = sumTo (fun j => f (l * j + p)) n := by
  induction n with
  | zero => rfl
  | succ n ih =>
    have hblock : ∑ i ∈ Finset.range l, f (l * n + i) = f (l * n + p) :=
      Finset.sum_eq_single_of_mem p (Finset.mem_range.mpr hp) fun i hi hne => hf n i (Finset.mem_range.mp hi) hne
    rw [sumTo, ← ih, Nat.mul_succ, sumTo_eq_sum_range, sumTo_eq_sum_range, Finset.sum_range_add, hblock]

/-- The zero-stuffed input is 0 between the inputs: at offset `p - i` from a multiple of `l`, with `i ≠ p` both below `l`. -/
theorem upsampled_eq_zero {l p i : Nat} (xs : List Int) (hp : p < l) (hi : i < l) (hne : i ≠ p) (k j : Nat) :
    upsampled l xs (((l * k + p : Nat) : Int) - (l * j + i : Nat)) = 0 := by
  have hsplit : ((l * k + p : Nat) : Int) - (l * j + i : Nat) = ((p : Int) - i) + l * ((k : Int) - j) := by push_cast; ring
  have hmod : (((l * k + p : Nat) : Int) - (l * j + i : Nat)) % l ≠ 0 := by
    rw [hsplit, Int.add_mul_emod_self_left]
    intro h0
    have := Int.eq_zero_of_abs_lt_dvd (Int.dvd_of_emod_eq_zero h0) (by rw [abs_lt]; omega)
    omega
  exact if_neg fun h => hmod h.2

/-- At a multiple of `l` the zero-stuffed input is the input, and 0 before the first one. -/
theorem upsampled_mul {l : Nat} (hl : 0 < l) (xs : List Int) (i : Int) :
    upsampled l xs (l * i) = if 0 ≤ i then xs.getD i.toNat 0 else 0 := by
  have hpos : (0 : Int) < l := Int.natCast_pos.mpr hl
  rw [upsampled, Int.mul_ediv_cancel_left _ hpos.ne']
  simp only [Int.mul_emod_right, mul_nonneg_iff_of_pos_left hpos, and_true]

/-- Slot `j` of the delay line holds the zero-stuffed input `j` input periods back, 0 where that is before the first input. -/
theorem delayAfter_getD_eq_upsampled {l tpp k j : Nat} (xs : List Int) (hl : 0 < l) (hk : k < xs.length) (hj : j < tpp) :
    (delayAfter tpp (List.replicate tpp 0) xs k).getD j 0 = upsampled l xs ((l : Int) * ((k : Int) - j)) := by
  have htake : (xs.take (k + 1)).length = k + 1 := List.length_take_of_le hk
  have hlen : (xs.take (k + 1)).reverse.length = k + 1 := List.length_reverse.trans htake
  rw [upsampled_mul hl, List.getD_eq_getElem?_getD, delayAfter, List.getElem?_take_of_lt hj]
  by_cases hjk : j ≤ k
  · have hback : ((k : Int) - j).toNat = k - j := by omega
    rw [if_pos (by omega), hback, List.getElem?_append_left (by omega), List.getElem?_reverse (by omega), htake,
      Nat.add_sub_cancel, List.getElem?_take_of_lt (by omega), List.getD_eq_getElem?_getD]
  · rw [if_neg (by omega), List.getElem?_append_right (by omega), List.getElem?_replicate_of_lt (by omega), Option.getD_some]

/-- Branch `p` at input `k` is the direct form at output `l·k + p`: the taps of the other branches meet stuffed zeros. -/
theorem branchSum_delayAfter_eq_directForm (h : Nat → Int) {l k p : Nat} (tpp : Nat) (xs : List Int) (hp : p < l) (hk : k < xs.length) :
    branchSum h l p (delayAfter tpp (List.replicate tpp 0) xs k) = directForm h l tpp xs (l * k + p) := by
  have hlen : (delayAfter tpp (List.replicate tpp (0 : Int)) xs k).length = tpp := by simp [delayAfter]
  rw [branchSum_eq_sumTo, hlen, directForm,
    sumTo_mul_of_sparse hp fun j i hi hne => by rw [upsampled_eq_zero xs hp hi hne, Int.mul_zero]]
  refine sumTo_congr fun j hj => ?_
  have hback : ((l * k + p : Nat) : Int) - (l * j + p : Nat) = l * ((k : Int) - j) := by push_cast; ring
  rw [delayAfter_getD_eq_upsampled xs (Nat.zero_lt_of_lt hp) hk hj, hback, Nat.add_comm p, Nat.mul_comm j]

/-- Settles O40: output `m` is branch `m % l` at input `m / l`, which is the direct form at `m`. -/
theorem polyphaseEqualsDirectForm : Obligations.PolyphaseEqualsDirectForm := by
  intro h l tpp xs m hl _ hm
  have hsum (f : Cplx → Int) (hf : f ⟨0#16, 0#16⟩ = 0) :
      branchSum h l (m % l) ((delayAfter tpp (List.replicate tpp ⟨0#16, 0#16⟩) xs (m / l)).map f)
        = directForm h l tpp (xs.map f) m := by
    rw [map_delayAfter, List.map_replicate, hf, branchSum_delayAfter_eq_directForm h tpp _ (Nat.mod_lt m hl)
      (by rw [List.length_map]; exact Nat.div_lt_of_lt_mul hm), Nat.div_add_mod]
  rw [fir_empty_getElem? h tpp xs hl hm, branchOut, hsum _ rfl, hsum _ rfl, roundAcc, roundAcc]

/-! ### O41: the DC gain (R104) -/

theorem branchSum_replicate (h : Nat → Int) (l p n : Nat) (c : Int) :
    branchSum h l p (List.replicate n c) = sumTo (fun j => h (p + j * l)) n * c := by
  rw [branchSum_eq_sumTo, List.length_replicate, sumTo_eq_sum_range, sumTo_eq_sum_range, Finset.sum_mul]
  refine Finset.sum_congr rfl fun j hj => ?_
  rw [List.getD_replicate _ (Finset.mem_range.mp hj)]

/-- Rounding gives back an exact multiple of 2^14: the half added is lost. -/
theorem roundAcc_mul (c : Int) : roundAcc (2 ^ 14 * c) = c := by
  rw [roundAcc]; omega

/-- Once `tpp` equal inputs are in, the delay line holds nothing else. -/
theorem delayAfter_replicate {α : Type} {tpp n k : Nat} (d : List α) (c : α) (hk : k < n) (htpp : tpp ≤ k + 1) :
    delayAfter tpp d (List.replicate n c) k = List.replicate tpp c := by
  rw [delayAfter, List.take_replicate, Nat.min_eq_left hk, List.reverse_replicate,
    List.take_append_of_le_length (by simpa using htpp), List.take_replicate, Nat.min_eq_left htpp]

/-- Settles O41: a full delay line of `c` has branch sum 2^14·c. -/
theorem unitBranchSumsPassConstants : Obligations.UnitBranchSumsPassConstants := by
  intro h l tpp n m c hl _ hgain hwarm hm
  have hfull : tpp - 1 ≤ m / l := (Nat.le_div_iff_mul_le hl).mpr (by rwa [Nat.mul_comm])
  rw [fir_empty_getElem? h tpp _ hl (by rwa [List.length_replicate]),
    delayAfter_replicate _ c (Nat.div_lt_of_lt_mul hm) (by omega), branchOut]
  simp only [List.map_replicate, branchSum_replicate, hgain _ (Nat.mod_lt m hl), roundAcc_mul]

/-! ### O42: the output range (R102) -/

theorem abs_branchSum_le {h : Nat → Int} (hh : ∀ t, |h t| ≤ 32768) (l p : Nat) {xs : List Int} (hx : ∀ x ∈ xs, |x| ≤ 32767) :
    |branchSum h l p xs| ≤ 32768 * 32767 * xs.length := by
  induction xs generalizing p with
  | nil => simp [branchSum]
  | cons x xs ih =>
    obtain ⟨hx0, hxs⟩ := List.forall_mem_cons.mp hx
    have hprod : |h p * x| ≤ 32768 * 32767 := by
      rw [abs_mul]; exact mul_le_mul (hh p) hx0 (abs_nonneg x) (by decide)
    calc |branchSum h l p (x :: xs)| ≤ |h p * x| + |branchSum h l (p + l) xs| := abs_add_le _ _
      _ ≤ 32768 * 32767 + 32768 * 32767 * xs.length := Int.add_le_add hprod (ih (p + l) hxs)
      _ = 32768 * 32767 * (x :: xs).length := by rw [List.length_cons]; push_cast; ring

/-- The bound of R102 on an accumulator is a multiple of 2^14, so rounding does not pass it. -/
theorem abs_roundAcc_le {acc b : Int} (hacc : |acc| ≤ 2 ^ 14 * b) : |roundAcc acc| ≤ b := by
  rw [abs_le] at hacc ⊢
  rw [roundAcc]; omega

/-- Settles O42: 255 products of at most 32768·32767 each. -/
theorem interpolatorOutputFits : Obligations.InterpolatorOutputFits := by
  intro h l p d htap hlen hd
  have hfit (f : Cplx → Int) (hf : ∀ x ∈ d, |f x| ≤ 32767) : |roundAcc (branchSum h l p (d.map f))| ≤ 16711170 := by
    have hsum := abs_branchSum_le (h := h) (fun t => abs_le.mpr ⟨(htap t).1, by have := (htap t).2; omega⟩) l p
      (List.forall_mem_map.mpr hf)
    rw [List.length_map] at hsum
    exact abs_roundAcc_le (by omega)
  exact ⟨hfit _ fun x hx => (hd x hx).1, hfit _ fun x hx => (hd x hx).2⟩

end Sys2Proof.Machine
end

section
/-! PROOFS. The statements of 45_sample_sink.md: the conversions, the bytes of OUTSEQ in each format, its length, and the port outside RUN (R106 to R112). -/

namespace Sys2Proof.Machine

/-! ### O43: IQ_S8 (R107) -/

/-- Truncation toward zero is the division of the magnitude, with the sign put back. -/
theorem tdiv_eq_ite_div (x b : Int) : Int.tdiv x b = if 0 ≤ x then x / b else -(-x / b) := by
  split
  case isTrue hx => exact Int.tdiv_eq_ediv_of_nonneg hx
  case isFalse hx => rw [← Int.tdiv_eq_ediv_of_nonneg (by omega : 0 ≤ -x), Int.neg_tdiv, neg_neg]

/-- The clamped value is an s8, so the byte holds it. -/
theorem s8_toInt (y : Int) : (s8 y).toInt = min (max (Int.tdiv (y * 127) 32768) (-128)) 127 :=
  BitVec.toInt_ofInt_eq_self (by decide) (by omega) (by omega)

/-- Settles O43: the byte is the clamped quotient, and the rest is linear arithmetic on it. -/
theorem signedByteTruncatesAndClamps : Obligations.SignedByteTruncatesAndClamps := by
  intro y
  rw [s8_toInt, tdiv_eq_ite_div]
  refine ⟨?quotient, ?fullScale, ?highest, ?lowest⟩
  case quotient => split <;> omega
  case fullScale =>
    intro hy
    rw [abs_le] at hy ⊢
    omega
  case highest => omega
  case lowest => omega

/-! ### O44: FLOAT32 (R108) -/

/-- The significand of a magnitude below 2^24, hidden bit included. -/
def significand (a : Nat) : Nat := a * 2 ^ (23 - Nat.log2 a)

theorem significand_bounds {a : Nat} (h0 : a ≠ 0) (ha : a < 2 ^ 24) :
    Nat.log2 a ≤ 23 ∧ 2 ^ 23 ≤ significand a ∧ significand a < 2 ^ 24 := by
  have hlog : Nat.log2 a < 24 := (Nat.log2_lt h0).mpr ha
  have hlow : 2 ^ Nat.log2 a ≤ a := Nat.log2_self_le h0
  have hhigh : a < 2 ^ (Nat.log2 a + 1) := Nat.lt_log2_self
  have hexp : Nat.log2 a + (23 - Nat.log2 a) = 23 := by omega
  refine ⟨by omega, ?_, ?_⟩
  · calc 2 ^ 23 = 2 ^ Nat.log2 a * 2 ^ (23 - Nat.log2 a) := by rw [← Nat.pow_add, hexp]
      _ ≤ significand a := Nat.mul_le_mul_right _ hlow
  · calc significand a < 2 ^ (Nat.log2 a + 1) * 2 ^ (23 - Nat.log2 a) := Nat.mul_lt_mul_of_pos_right hhigh (by positivity)
      _ = 2 ^ 24 := by rw [← Nat.pow_add]; congr 1; omega

theorem significand_mul_pow {a : Nat} (hlog : Nat.log2 a ≤ 23) : significand a * 2 ^ (Nat.log2 a + 112) = a * 2 ^ 135 := by
  rw [significand, Nat.mul_assoc, ← Nat.pow_add]
  congr 2; omega

theorem f32Bits_of_ne_zero {y : Int} (h0 : y ≠ 0) :
    f32Bits y = (if y < 0 then 1 else 0) * 2 ^ 31 + (Nat.log2 y.natAbs + 112) * 2 ^ 23 + significand y.natAbs % 2 ^ 23 := if_neg h0

/-- The sign, the exponent and the significand are fields that do not overlap. -/
theorem f32Bits_fields {y : Int} (h0 : y ≠ 0) (hy : y.natAbs < 2 ^ 24) :
    f32Bits y / 2 ^ 31 = (if y < 0 then 1 else 0) ∧ f32Bits y / 2 ^ 23 % 256 = Nat.log2 y.natAbs + 112
      ∧ 2 ^ 23 + f32Bits y % 2 ^ 23 = significand y.natAbs := by
  obtain ⟨hlog, hlow, hhigh⟩ := significand_bounds (Int.natAbs_ne_zero.mpr h0) hy
  rw [f32Bits_of_ne_zero h0]
  split <;> omega

/-- The four bytes, least significant first, put together again (R49 20_memory.md). -/
theorem f32_word {y : Int} (h : f32Bits y < 2 ^ 32) :
    ((f32 y).getD 0 0#8).toNat + 256 * ((f32 y).getD 1 0#8).toNat + 65536 * ((f32 y).getD 2 0#8).toNat
      + 16777216 * ((f32 y).getD 3 0#8).toNat = f32Bits y := by
  have hbyte {k : Nat} (hk : k < 4) : ((f32 y).getD k 0#8).toNat = f32Bits y / 2 ^ (8 * k) % 256 := by
    simp [f32, List.getD_eq_getElem?_getD, hk]
  rw [hbyte (by decide : 0 < 4), hbyte (by decide : 1 < 4), hbyte (by decide : 2 < 4), hbyte (by decide : 3 < 4)]
  omega

/-- Settles O44: the bytes are the pattern's, and the significand times its power of two is the magnitude. -/
theorem floatEncodingIsExact : Obligations.FloatEncodingIsExact := by
  intro y hy
  refine ⟨f32_length y, ?zero, ?nonzero⟩
  case zero => rintro rfl; rfl
  case nonzero =>
    intro h0
    have hmag : y.natAbs < 2 ^ 24 := by rw [abs_lt] at hy; omega
    obtain ⟨hsign, hexp, hsig⟩ := f32Bits_fields h0 hmag
    have hlog := (significand_bounds (Int.natAbs_ne_zero.mpr h0) hmag).1
    have hword : f32Bits y < 2 ^ 32 := by split at hsign <;> omega
    rw [f32_word hword, hexp, hsig]
    exact ⟨hsign, by omega, by omega, significand_mul_pow hlog⟩

/-! ### The formats and OUTSEQ (R106, R109, R110) -/

theorem Regs.format_of_fmt_zero {r : Regs} (h : r.fmt = 0#2) : r.format = some .iqS8 := by simp [Regs.format, h]

theorem Regs.format_of_fmt_one {r : Regs} (h : r.fmt = 1#2) : r.format = some .iqF32 := by simp [Regs.format, h]

theorem Regs.format_of_fmt_two {r : Regs} (h : r.fmt = 2#2) : r.format = some .pcmF32 := by simp [Regs.format, h]

/-- A legal format code is 0, 1 or 2; code 3 is reserved. -/
theorem Regs.fmt_cases {r : Regs} (h : r.format.isSome = true) : r.fmt = 0#2 ∨ r.fmt = 1#2 ∨ r.fmt = 2#2 := by
  have hcode : ∀ c : BitVec 2, c = 0#2 ∨ c = 1#2 ∨ c = 2#2 ∨ c = 3#2 := by decide
  obtain h0 | h1 | h2 | h3 := hcode r.fmt
  · exact .inl h0
  · exact .inr (.inl h1)
  · exact .inr (.inr h2)
  · simp [Regs.format, h3] at h

theorem State.outseq_of_iqS8 {s : State} (h : s.regs.fmt = 0#2) : s.outseq = s.firOutput.flatMap (iqBytes .iqS8) := by
  simp [State.outseq, Regs.format_of_fmt_zero h]

theorem State.outseq_of_iqF32 {s : State} (h : s.regs.fmt = 1#2) : s.outseq = s.firOutput.flatMap (iqBytes .iqF32) := by
  simp [State.outseq, Regs.format_of_fmt_one h]

theorem State.outseq_of_pcmF32 {s : State} (h : s.regs.fmt = 2#2) : s.outseq = s.audio.flatMap fun x => f32 x.toInt := by
  simp [State.outseq, Regs.format_of_fmt_two h]

/-- Settles O46: in PCM_F32 OUTSEQ is a function of the audio, and the audio reads none of the replaced registers. -/
theorem pcmOutputIgnoresFmAndFir : Obligations.PcmOutputIgnoresFmAndFir := by
  intro s fmK flush l tpp coef hfmt t
  have haudio : t.audio = s.audio := rfl
  exact ⟨by rw [State.outseq_of_pcmF32 hfmt, State.outseq_of_pcmF32 (s := t) hfmt, haudio], State.outseq_of_pcmF32 hfmt⟩

/-! ### O47: I and then Q (R110) -/

theorem iqBytes_iqS8_length (y : YWord) : (iqBytes .iqS8 y).length = 2 := rfl

theorem iqBytes_iqF32_length (y : YWord) : (iqBytes .iqF32 y).length = 8 := by simp [iqBytes, f32_length]

theorem iqBytes_iqF32_getElem?_re (y : YWord) {j : Nat} (hj : j < 4) : (iqBytes .iqF32 y)[j]? = (f32 y.1)[j]? :=
  List.getElem?_append_left (by rwa [f32_length])

theorem iqBytes_iqF32_getElem?_im (y : YWord) (j : Nat) : (iqBytes .iqF32 y)[4 + j]? = (f32 y.2)[j]? := by
  rw [iqBytes, List.getElem?_append_right (by rw [f32_length]; omega), f32_length, Nat.add_sub_cancel_left]

/-- Settles O47: the composed stages are the model's `firOutput`, and each output of it gives bytes of one fixed length. -/
theorem iqBytesInOrder : Obligations.IqBytesInOrder := by
  intro s
  change (_ → _ = 2 * s.firOutput.length) ∧ (_ → _ = 8 * s.firOutput.length) ∧ ∀ m y, s.firOutput[m]? = some y → _
  refine ⟨fun h => ?_, fun h => ?_, fun m y hy => ⟨fun h => ?_, fun h j hj => ?_⟩⟩
  · rw [State.outseq_of_iqS8 h, length_flatMap_const _ 2 iqBytes_iqS8_length]
  · rw [State.outseq_of_iqF32 h, length_flatMap_const _ 8 iqBytes_iqF32_length]
  · rw [State.outseq_of_iqS8 h]
    have hbyte {j : Nat} (hj : j < 2) := getElem?_flatMap_const _ 2 iqBytes_iqS8_length hy hj
    exact ⟨hbyte (by decide : 0 < 2), hbyte (by decide : 1 < 2)⟩
  · rw [State.outseq_of_iqF32 h, Nat.add_assoc]
    have hbyte {i : Nat} (hi : i < 8) := getElem?_flatMap_const _ 8 iqBytes_iqF32_length hy hi
    exact ⟨(hbyte (by omega)).trans (iqBytes_iqF32_getElem?_re y hj), (hbyte (by omega)).trans (iqBytes_iqF32_getElem?_im y j)⟩

/-! ### O45: the length of OUTSEQ (R111) -/

/-- MonitorOK of every frame built (R134 60_exceptions.md). -/
theorem State.monitorOk_buildFrame (s : State) : monitorOk s.buildFrame = true := by
  have hcrc : crcReg s.buildFrame = 0xF0B8#16 := crcReg_withFcs s.frameBody
  simp [monitorOk, hcrc, hasSixOnes_dataBits]

/-- An accepted START enters RUN (R121 46_commands.md). -/
theorem exec_start_of_check_none {s : State} (hm : s.mode = .idle) (hc : s.check = none) :
    exec .start s = .next s.loadFrame.enterRun := by
  simp [exec, execStart, State.locked, hm, State.startRun, hc, State.monitorOk_buildFrame]

theorem State.loadFrame_line {s : State} (hc : s.check = none) :
    s.loadFrame.line = lineBits s.regs.npre s.regs.npost s.buildFrame := by
  simp [State.line, State.loadFrame_frameBytes hc]

/-- The bounds of R80 41_serializer_nrzi.md on BIT_COUNT, for the frames of R73 40_frame_builder.md. -/
theorem State.loadFrame_bitCount_bounds {s : State} (hc : s.check = none) :
    160 ≤ s.loadFrame.bitCount.toNat ∧ s.loadFrame.bitCount.toNat ≤ 7248 := by
  obtain ⟨hpre, hpost, -⟩ := Regs.configOk_spec (State.check_none hc).1
  have hfits := State.buildFrame_fits hc
  have hframe := s.buildFrame_length
  obtain ⟨hlen, -, hmax⟩ := lineLengthFormula s.regs.npre s.regs.npost s.buildFrame
  rw [State.loadFrame_bitCount_eq hc, State.loadFrame_line hc]
  refine ⟨?_, hmax (by unfold Regs.npre; omega) (by unfold Regs.npost; omega) hfits⟩
  rw [Regs.nAddr] at hframe
  omega

/-- The lengths of R111, with B in BIT_COUNT. -/
theorem State.outLen_of_fmt {s : State} (h : s.regs.format.isSome = true) :
    s.outLen = if s.regs.fmt = 0#2 then 2 * s.regs.l.toNat * (40 * s.bitCount.toNat + s.regs.flush.toNat)
      else if s.regs.fmt = 1#2 then 8 * s.regs.l.toNat * (40 * s.bitCount.toNat + s.regs.flush.toNat)
      else 160 * s.bitCount.toNat := by
  obtain h0 | h1 | h2 := Regs.fmt_cases h
  · simp [State.outLen, Regs.format_of_fmt_zero h0, h0, Config.sps]
  · simp [State.outLen, Regs.format_of_fmt_one h1, h1, Config.sps]
  · simp [State.outLen, Regs.format_of_fmt_two h2, h2, Config.sps, ← Nat.mul_assoc]

/-- The least output is 160 line bits in IQ_S8 at L = 1 without flush, the largest 7248 line bits in IQ_F32 at L = 64 with the longest flush. -/
theorem State.outLen_bounds {s : State} (hc : s.regs.configOk = true) (hlow : 160 ≤ s.bitCount.toNat) (hhigh : s.bitCount.toNat ≤ 7248) :
    12800 ≤ s.outLen ∧ s.outLen ≤ 181992960 := by
  obtain ⟨-, -, hfmt, hl, hlmax, -⟩ := Regs.configOk_spec hc
  have hflush := s.regs.flush.isLt
  have hinputs : 1 * 6400 ≤ s.regs.l.toNat * (40 * s.bitCount.toNat + s.regs.flush.toNat) :=
    Nat.mul_le_mul (Nat.pos_of_ne_zero hl) (by omega)
  have hinputs' : s.regs.l.toNat * (40 * s.bitCount.toNat + s.regs.flush.toNat) ≤ 64 * 355455 := Nat.mul_le_mul hlmax (by omega)
  rw [State.outLen_of_fmt hfmt, Nat.mul_assoc, Nat.mul_assoc]
  split
  · omega
  · split <;> omega

/-- Settles O45: an accepted START enters RUN with the line's length in BIT_COUNT, which fixes the output's length. -/
theorem outputLengthByFormat : Obligations.OutputLengthByFormat := by
  intro s hm hc
  obtain ⟨hcfg, -⟩ := State.check_none hc
  obtain ⟨-, -, hfmt, -⟩ := Regs.configOk_spec hcfg
  obtain ⟨hlow, hhigh⟩ := State.loadFrame_bitCount_bounds hc
  have hlen : s.loadFrame.enterRun.outseq.length = s.loadFrame.enterRun.outLen := State.outseq_length (State.loadFrame_bitCount_eq hc)
  refine ⟨_, exec_start_of_check_none hm hc, ?_⟩
  rw [hlen]
  exact ⟨State.outLen_of_fmt (s := s.loadFrame.enterRun) hfmt, State.outLen_bounds (s := s.loadFrame.enterRun) hcfg hlow hhigh⟩

/-! ### O49: the port outside RUN (R112) -/

theorem State.outValid_of_not_run {s : State} (hm : s.mode ≠ .run) : s.outValid = false := by simp [State.outValid, hm]

theorem sinkReady_of_not_run {s : State} (hm : s.mode ≠ .run) : sinkReady s = .next s := by
  simp [sinkReady, State.outValid_of_not_run hm]

theorem step_sinkReady {s : State} {rest : List Event} (hin : s.inbox = .sinkReady :: rest) :
    step s = sinkReady (s.setInbox rest) := by
  simp [step, hin, commandWord, applyEvent]

/-- Settles O49: the port is closed outside RUN, so the step only takes the event from the inbox. -/
theorem noByteMovesOutsideRun : Obligations.NoByteMovesOutsideRun := by
  intro s rest hm
  have hvalid := State.outValid_of_not_run hm
  refine ⟨hvalid, by simp [State.outData, hvalid], fun hin => ?_⟩
  rw [step_sinkReady hin]
  exact sinkReady_of_not_run hm

end Sys2Proof.Machine
end

section
/-! PROOFS. The statements of 46_commands.md: the commands, the host's accesses, START, the resets, and how a run goes on and ends (R114 to R126). -/

namespace Sys2Proof.Machine

/-! ### The register a byte offset reaches (R15 10_state.md, R42, R43 20_memory.md) -/

theorem offset_of_regAt {addr : Byte} {r : Reg} (h : regAt addr = some r) : addr.toNat / 4 * 4 = r.offset.toNat := by
  have hall : ∀ addr : Byte, ∀ r ∈ regAt addr, addr.toNat / 4 * 4 = r.offset.toNat := by decide +kernel
  exact hall addr r h

theorem regAt_of_offset {addr : Byte} {r : Reg} (h : addr.toNat / 4 * 4 = r.offset.toNat) : regAt addr = some r := by
  have hslot : wordSlot addr = wordSlot r.offset := by
    simp only [wordSlot, BitVec.extractLsb'_toNat, Nat.shiftRight_eq_div_pow]
    omega
  rw [← regAt_offset r, regAt, regAt, hslot]

theorem regAt_eq_cmd_iff {addr : Byte} : regAt addr = some .cmd ↔ addr.toNat / 4 * 4 = 0x10 :=
  ⟨offset_of_regAt, regAt_of_offset (r := .cmd)⟩

/-- The unmapped offsets lie between COEF_DATA and the address entries, and after them. -/
theorem offset_of_unmapped {addr : Byte} (h : regAt addr = none) :
    (0x40 < addr.toNat / 4 * 4 ∧ addr.toNat / 4 * 4 < 0x80) ∨ 0xCC < addr.toNat / 4 * 4 := by
  have hall : ∀ addr : Byte, regAt addr = none →
      (0x40 < addr.toNat / 4 * 4 ∧ addr.toNat / 4 * 4 < 0x80) ∨ 0xCC < addr.toNat / 4 * 4 := by decide +kernel
  exact hall addr h

/-- ADDR_LO of entry `e` stands at 0x80 + 8e (R33 10_state.md). -/
theorem Reg.addrLo_offset {e : Fin 10} {o : Nat} (ho : o = (Reg.addrLo e).offset.toNat) :
    0x80 ≤ o ∧ o ≤ 0xCC ∧ o % 8 = 0 ∧ (o - 0x80) / 8 = e.val := by
  simp only [Reg.offset, BitVec.toNat_ofNat] at ho
  omega

/-- ADDR_HI of entry `e` stands at 0x84 + 8e (R33 10_state.md). -/
theorem Reg.addrHi_offset {e : Fin 10} {o : Nat} (ho : o = (Reg.addrHi e).offset.toNat) :
    0x80 ≤ o ∧ o ≤ 0xCC ∧ o % 8 = 4 ∧ (o - 0x80) / 8 = e.val := by
  simp only [Reg.offset, BitVec.toNat_ofNat] at ho
  omega

theorem Regs.entry_fin (r : Regs) (e : Fin 10) : r.entry e.val = r.addr[e] := by
  simp [Regs.entry, Vector.getD]

/-! ### The step, by what the next event is (R114) -/

theorem step_of_command {s : State} {e : Event} {rest : List Event} {w : Word} {i : Instr} (hin : s.inbox = e :: rest)
    (hw : commandWord e = some w) (hd : decode w = .ok i) : step s = exec i (s.setInbox rest) := by
  simp [step, hin, hw, hd]

theorem step_of_illegal {s : State} {e : Event} {rest : List Event} {w : Word} {d : DecodeError} (hin : s.inbox = e :: rest)
    (hw : commandWord e = some w) (hd : decode w = .error d) : step s = .next (illegalCommand w (s.setInbox rest)) := by
  simp [step, hin, hw, hd]

theorem step_of_event {s : State} {e : Event} {rest : List Event} (hin : s.inbox = e :: rest)
    (hw : commandWord e = none) : step s = applyEvent e (s.setInbox rest) := by
  simp [step, hin, hw]

theorem exec_next (i : Instr) (s : State) : ∃ t, exec i s = .next t := by
  obtain ⟨-, h⟩ | ⟨-, h⟩ | ⟨-, -, -, h⟩ | ⟨-, -, h⟩ | ⟨b, -, -, h⟩ | ⟨-, -, h⟩ := exec_cases i s <;> exact ⟨_, h⟩

/-- Settles O1: the offset reaches CMD, so the event carries a command word, and a command's own word decodes to it. -/
theorem stepRunsDecodedCommand : Obligations.StepRunsDecodedCommand := by
  refine ⟨fun s addr w rest i hin hoff hd => ?_, fun s i => ?_⟩
  · exact step_of_command hin (by simp [commandWord, regAt_eq_cmd_iff.mpr hoff]) hd
  · have hword : BitVec.ofNat 32 ((encode i).toNat % 2 ^ 32) = encode i := by
      rw [Nat.mod_eq_of_lt (encode i).isLt, BitVec.ofNat_toNat, BitVec.setWidth_eq]
    have hw : commandWord (commandEvent (encode i)) = some (encode i) := by simp [commandWord, commandEvent, regAt_offset]
    rw [State.withFetchWord, hword, step_of_command rfl hw (decode_encode i), State.setInbox_setInbox, State.setInbox_self]

/-! ### The commands in IDLE and while locked (R117 to R120) -/

/-- Settles O16: NOP's arm is the identity, and its word has all fields 0. -/
theorem nopChangesNothing : Obligations.NopChangesNothing := ⟨by decide, fun _ => rfl⟩

theorem State.locked_iff {s : State} : s.locked = true ↔ s.mode ≠ .idle := by simp [State.locked]

/-- Settles O17: IDLE is not locked. -/
theorem clearZeroesInfoLen : Obligations.ClearZeroesInfoLen := by
  intro s hm
  simp [exec, execClear, State.locked_iff, hm, State.clearInfo]

/-- The lock of commands (R117): only NOP and SOFT_RESET pass it. -/
theorem exec_of_locked {s : State} {i : Instr} (hm : s.mode ≠ .idle) (hn : i ≠ .nop) (hr : i ≠ .softReset) :
    exec i s = .next s.setWign := by
  obtain ⟨h, -⟩ | ⟨h, -⟩ | ⟨-, -, -, h⟩ | ⟨-, h, -⟩ | ⟨-, -, h, -⟩ | ⟨-, h, -⟩ := exec_cases i s
  · exact absurd h hn
  · exact absurd h hr
  · exact h
  all_goals exact absurd h hm

/-- Settles O19: none of the three is NOP or SOFT_RESET. -/
theorem lockedCommandsOnlySetWign : Obligations.LockedCommandsOnlySetWign := fun _ _ hm =>
  ⟨exec_of_locked hm nofun nofun, exec_of_locked hm nofun nofun, exec_of_locked hm nofun nofun⟩

theorem exec_pushInfo_of_idle {s : State} (hm : s.mode = .idle) (b : Byte) : exec (.pushInfo b) s = .next (s.push b) := by
  simp [exec, execPushInfo, State.locked_iff, hm]

theorem State.infoByte_pushInfoByte_same (s : State) (b : Byte) : (s.pushInfoByte b).infoByte s.infoLen.toNat = b := by
  simp [State.infoByte]

theorem State.infoByte_pushInfoByte_other (s : State) (b : Byte) {i : Nat} (hi : i ≠ s.infoLen.toNat) :
    (s.pushInfoByte b).infoByte i = s.infoByte i := by
  simp [State.infoByte, Memory.read_write_other _ hi]

/-- Settles O18, by the two outcomes of `State.push`; below 256 INFO_LEN does not wrap. -/
theorem pushInfoAppendsOrRejects : Obligations.PushInfoAppendsOrRejects := by
  intro s b hm
  rw [exec_pushInfo_of_idle hm]
  obtain ⟨hfull, h⟩ | ⟨hroom, h⟩ := s.push_cases b
  · exact ⟨fun hlt => absurd hlt (Nat.not_lt.mpr hfull), fun _ => by rw [h]⟩
  · refine ⟨fun _ => ?_, fun hle => absurd hroom (Nat.not_lt.mpr hle)⟩
    have hlen : (s.infoLen + 1#9).toNat = s.infoLen.toNat + 1 := by simp only [Config.infoCap] at hroom; bv_omega
    exact ⟨_, by rw [h], s.infoByte_pushInfoByte_same b, fun i hi => s.infoByte_pushInfoByte_other b hi, hlen, rfl⟩

/-! ### O11: the register reads (R115) -/

/-- STATUS as its bits, most significant first (R19 10_state.md). -/
theorem State.statusWord_eq_or (s : State) :
    let bit (b : Bool) (k : Nat) : Word := if b then 1#32 <<< k else 0#32
    s.statusWord = bit s.irq 6 ||| bit (s.mode == .fault) 5 ||| bit s.wign 4 ||| bit s.ovf 3 ||| bit s.err 2 ||| bit s.done 1
      ||| bit (s.mode == .run) 0 := by
  have hbits : ∀ run done err ovf wign fault irq : Bool,
      BitVec.ofNat 32 (bitAt run 0 + bitAt done 1 + bitAt err 2 + bitAt ovf 3 + bitAt wign 4 + bitAt fault 5 + bitAt irq 6)
        = (if irq then 1#32 <<< 6 else 0#32) ||| (if fault then 1#32 <<< 5 else 0#32) ||| (if wign then 1#32 <<< 4 else 0#32)
          ||| (if ovf then 1#32 <<< 3 else 0#32) ||| (if err then 1#32 <<< 2 else 0#32) ||| (if done then 1#32 <<< 1 else 0#32)
          ||| (if run then 1#32 <<< 0 else 0#32) := by decide
  exact hbits _ _ _ _ _ _ _

theorem ErrorKind.code_lt (k : ErrorKind) : k.code < 2 ^ 8 := by cases k <;> decide

/-- ERRINFO as its two fields (R21 10_state.md), which do not overlap. -/
theorem State.errInfoWord_eq_or (s : State) :
    s.errInfoWord = (s.errIndex.setWidth 32 <<< 8) ||| BitVec.ofNat 32 s.errKind.code := by
  rw [State.errInfoWord, ← Nat.shiftLeft_eq, Nat.shiftLeft_add_eq_or_of_lt s.errKind.code_lt, BitVec.ofNat_or]
  rfl

/-- Settles O11, register by register: the offset of each register picks its clause. -/
theorem hostReadReturnsMap : Obligations.HostReadReturnsMap := by
  intro s addr rest hin o bit
  rw [step_hostRead hin]
  refine congrArg (fun w => Host.Outcome.next ((s.setInbox rest).giveHost w)) ?_
  change s.hostRead addr = _
  cases hreg : regAt addr with
  | none =>
    have ho : (0x40 < o ∧ o < 0x80) ∨ 0xCC < o := offset_of_unmapped hreg
    simp (disch := omega) only [State.hostRead, hreg, if_neg]
  | some r =>
    have ho : o = r.offset.toNat := offset_of_regAt hreg
    simp only [State.hostRead, hreg]
    clear_value o
    cases r with
    | addrLo e =>
      obtain ⟨hlow, hhigh, hmod, he⟩ := Reg.addrLo_offset ho
      simp (disch := omega) only [if_neg, if_pos, he, Regs.entry_fin, State.readReg]
    | addrHi e =>
      obtain ⟨hlow, hhigh, hmod, he⟩ := Reg.addrHi_offset ho
      simp (disch := omega) only [if_neg, if_pos, he, Regs.entry_fin, State.readReg]
    | status => subst ho; exact s.statusWord_eq_or
    | errInfo => subst ho; exact s.errInfoWord_eq_or
    | _ => subst ho; rfl

/-! ### O12: the register writes (R116) -/

/-- A W1C bit (R13 10_state.md). -/
theorem and_not_eq_ite (a b : Bool) : (a && !b) = if b then false else a := by cases b <;> simp

theorem State.ackStatus_eq_ite (s : State) (v : Word) :
    s.ackStatus v =
      { s with
        done := if v.getLsbD 1 then false else s.done
        err := if v.getLsbD 2 then false else s.err
        ovf := if v.getLsbD 3 then false else s.ovf
        wign := if v.getLsbD 4 then false else s.wign } := by
  simp only [State.ackStatus, and_not_eq_ite]

theorem State.pushCoef_eq_ofNat (s : State) (v : Half) :
    s.pushCoef v =
      { s with
        coef := Memory.write s.regs.coefPtr.toNat v s.coef
        regs := { s.regs with coefPtr := BitVec.ofNat 12 ((s.regs.coefPtr.toNat + 1) % 4096) } } := by
  have hnext : s.regs.coefPtr + 1#12 = BitVec.ofNat 12 ((s.regs.coefPtr.toNat + 1) % 4096) :=
    BitVec.eq_of_toNat_eq (by simp)
  rw [State.pushCoef, hnext]

/-- An entry's index is in bounds. -/
theorem vector_set_fin {α : Type} {n : Nat} (v : Vector α n) (e : Fin n) (x : α) : v.set e x = v.setIfInBounds e x := by
  ext i hi
  simp [Vector.getElem_set, Vector.getElem_setIfInBounds]

/-- The offsets of the locked class (R14, R15 10_state.md). -/
theorem Reg.offset_of_lockedClass {r : Reg} {o : Nat} (hk : r.lockedClass = true) (ho : o = r.offset.toNat) :
    o ≠ 0x08 ∧ o ≠ 0x0C
      ∧ (o = 0x18 ∨ o = 0x1C ∨ o = 0x20 ∨ o = 0x24 ∨ o = 0x3C ∨ o = 0x40 ∨ (0x80 ≤ o ∧ o ≤ 0xCC)) := by
  cases r with
  | addrLo e => obtain ⟨hlow, hhigh, -⟩ := Reg.addrLo_offset ho; omega
  | addrHi e => obtain ⟨hlow, hhigh, -⟩ := Reg.addrHi_offset ho; omega
  | _ => subst ho; revert hk; decide

/-- Settles O12, register by register: the offset picks its clause, and the lock stands before every locked-class register. -/
theorem hostWriteStoresStoredBits : Obligations.HostWriteStoresStoredBits := by
  intro s addr v rest hin hcmd o u
  rw [step_hostWrite hin (mt regAt_eq_cmd_iff.mp hcmd)]
  refine congrArg Host.Outcome.next ?_
  change u.hostWrite addr v = _
  clear_value u
  cases hreg : regAt addr with
  | none =>
    have ho : (0x40 < o ∧ o < 0x80) ∨ 0xCC < o := offset_of_unmapped hreg
    simp (disch := omega) only [State.hostWrite, hreg, if_neg]
  | some r =>
    have ho : o = r.offset.toNat := offset_of_regAt hreg
    simp only [State.hostWrite, hreg]
    clear_value o
    by_cases hk : r.lockedClass = true
    · obtain ⟨hctrl, hstatus, hclass⟩ := Reg.offset_of_lockedClass hk ho
      rw [if_neg hctrl, if_neg hstatus, if_pos hclass]
      by_cases hm : u.mode = .idle
      · rw [if_neg (not_not.mpr hm)]
        cases r with
        | coefData => subst ho; rw [State.writeReg_coefData hm, State.pushCoef_eq_ofNat]; rfl
        | addrLo e =>
          obtain ⟨hlow, hhigh, hmod, he⟩ := Reg.addrLo_offset ho
          rw [State.writeReg_store hm hk nofun, Regs.store, vector_set_fin]
          simp (disch := omega) only [if_neg, if_pos, he, Regs.entry_fin]
          rfl
        | addrHi e =>
          obtain ⟨hlow, hhigh, hmod, he⟩ := Reg.addrHi_offset ho
          rw [State.writeReg_store hm hk nofun, Regs.store, vector_set_fin]
          simp (disch := omega) only [if_neg, he, Regs.entry_fin]
          rfl
        | cfg0 | cfg1 | fmK | infoMax | coefPtr => subst ho; rw [State.writeReg_store hm hk nofun]; rfl
        | _ => contradiction
      · rw [if_pos hm, State.writeReg_of_locked hm hk]; rfl
    · cases r with
      | status => subst ho; exact u.ackStatus_eq_ite v
      | cfg0 | cfg1 | fmK | infoMax | coefPtr | coefData | addrLo e | addrHi e => exact absurd rfl hk
      | _ => subst ho; rfl

/-! ### The byte at the port (R112 45_sample_sink.md) -/

theorem State.outData_of_takeByte {s : State} {b : Byte} {q : Pipe} (hm : s.mode = .run) (h : s.takeByte = some (b, q)) :
    s.outData = b := by
  simp [State.outData, State.outValid, hm, h]

/-- A SINK ACCEPTANCE FROM A RUN STATE OF THE INVARIANT (R124, R125): what `State.moveByte_spec` says of it, at the step. -/
theorem step_sinkReady_of_run {s : State} {rest : List Event} (hs : s.Inv) (hm : s.mode = .run) (hin : s.inbox = .sinkReady :: rest) :
    ∃ q, let u := (s.setInbox rest).moveByte s.outData q
      step s = .next u.afterMove
      ∧ s.outseq[s.outPos.toNat]? = some s.outData ∧ u.outPos.toNat = s.outPos.toNat + 1
      ∧ ((u.outPos.toNat = s.outseq.length ∧ u.afterMove = u.complete)
        ∨ (u.outPos.toNat < s.outseq.length ∧ u.afterMove = u ∧ u.Inv))
      ∧ (u.sinkGot.take u.outPos.toNat).reverse = s.outseq.take u.outPos.toNat := by
  have hu := hs.setInbox rest
  obtain ⟨b, q, htake, hget, hpos, hreg, hend, hgot⟩ := State.moveByte_spec hu.reg (hu.run hm)
  obtain rfl : s.outData = b := State.outData_of_takeByte hm htake
  refine ⟨q, ?step, hget, hpos, ?_, hpos.symm ▸ hgot⟩
  case step =>
    have hvalid : (s.setInbox rest).outValid = true := by simp [State.outValid, hm]
    rw [step_sinkReady hin, sinkReady, if_pos hvalid, htake]
  obtain ⟨hlast, hmove⟩ | ⟨hlt, hmove, hrun⟩ := hend
  · exact .inl ⟨hpos.trans hlast, hmove⟩
  · exact .inr ⟨hpos.trans_lt hlt, hmove, hu.mem, hreg, fun _ => hrun⟩

/-- Settles O48: the acceptance moves the byte at the port, and completes the run or leaves mode and DONE alone. -/
theorem acceptMovesNextByte : Obligations.AcceptMovesNextByte := by
  intro s rest hs hm hin
  obtain ⟨q, hstep, hget, hpos, hend, -⟩ := step_sinkReady_of_run hs hm hin
  refine ⟨_, hstep, by simp [State.outValid, hm], hget, ?_⟩
  obtain ⟨hlast, h⟩ | ⟨hlt, h, -⟩ := hend <;> rw [h]
  · exact ⟨rfl, hpos, fun _ => ⟨rfl, rfl⟩, fun hne => absurd hlast hne, rfl⟩
  · exact ⟨rfl, hpos, fun he => absurd he hlt.ne, fun _ => ⟨hm, rfl⟩, rfl⟩

/-- Settles O54: a command always answers, and so does an event but for an acceptance in RUN, where the invariant has a byte at the port. -/
theorem invariantNeverFaults : Obligations.InvariantNeverFaults := by
  intro s hs
  cases hin : s.inbox with
  | nil => exact ⟨s, by simp [step, hin]⟩
  | cons e rest =>
    cases hw : commandWord e with
    | some w =>
      cases hd : decode w with
      | ok i => rw [step_of_command hin hw hd]; exact exec_next i _
      | error d => exact ⟨_, step_of_illegal hin hw hd⟩
    | none =>
      cases e with
      | sinkReady =>
        by_cases hm : s.mode = .run
        · obtain ⟨q, hstep, -⟩ := step_sinkReady_of_run hs hm hin
          exact ⟨_, hstep⟩
        · exact ⟨_, (step_sinkReady hin).trans (sinkReady_of_not_run hm)⟩
      | _ => exact ⟨_, step_of_event hin hw⟩

/-! ### O51, O57: a run to its end (R126) -/

/-- `t` is `s` with the rest of its run delivered: completed, and nothing else changed but the pipeline. -/
def State.DeliveredFrom (s t : State) (rest : List Event) : Prop :=
  t = { s with
    mode := .idle, done := true, outPos := t.outPos, inbox := rest, pipe := t.pipe
    sinkGot := (s.outseq.drop s.outPos.toNat).reverse ++ s.sinkGot }
  ∧ t.outPos.toNat = s.outseq.length

/-- The byte moved now and those delivered after it are the bytes that were left. -/
theorem State.DeliveredFrom.of_moveByte {s t : State} {es rest : List Event} {q : Pipe}
    (hget : s.outseq[s.outPos.toNat]? = some s.outData)
    (hpos : ((s.setInbox es).moveByte s.outData q).outPos.toNat = s.outPos.toNat + 1)
    (h : ((s.setInbox es).moveByte s.outData q).DeliveredFrom t rest) : s.DeliveredFrom t rest := by
  have hleft : s.outseq.drop s.outPos.toNat = s.outData :: s.outseq.drop (s.outPos.toNat + 1) := by
    rw [List.drop_eq_getElem?_toList_append, hget]; rfl
  have hgot : (s.outseq.drop (s.outPos.toNat + 1)).reverse ++ s.outData :: s.sinkGot
      = (s.outseq.drop s.outPos.toNat).reverse ++ s.sinkGot := by
    rw [hleft, List.reverse_cons, List.append_assoc]; rfl
  obtain ⟨ht, hend⟩ := h
  rw [hpos] at ht
  exact ⟨hgot ▸ ht, hend⟩

theorem State.deliveredFrom_complete {s : State} (hend : s.outPos.toNat = s.outseq.length) :
    s.DeliveredFrom s.complete s.inbox := by
  have hnil : s.outseq.drop s.outPos.toNat = [] := List.drop_eq_nil_of_le hend.ge
  refine ⟨?_, hend⟩
  rw [hnil]
  rfl

theorem core_run_succ {s t : State} (h : step s = .next t) (n : Nat) : core.run (n + 1) s = core.run n t := by
  have hcore : core.step s = .next t := h
  simp [Host.Core.run, hcore]

/-- By induction on the bytes left: the last acceptance completes the run, any other leaves one byte fewer. -/
theorem run_deliveredFrom (n : Nat) {s : State} {rest : List Event} (hs : s.Inv) (hm : s.mode = .run)
    (hn : s.outPos.toNat + n = s.outseq.length) (hin : s.inbox = List.replicate n .sinkReady ++ rest) :
    ∃ t, core.run n s = .next t ∧ s.DeliveredFrom t rest := by
  induction n generalizing s with
  | zero => exact absurd hn (hs.run hm).inside.ne
  | succ n ih =>
    obtain ⟨q, hstep, hget, hpos, hend, -⟩ := step_sinkReady_of_run (rest := List.replicate n Event.sinkReady ++ rest) hs hm hin
    rw [core_run_succ hstep]
    obtain ⟨hlast, h⟩ | ⟨-, h, hinv⟩ := hend <;> rw [h]
    · obtain rfl : n = 0 := by omega
      exact ⟨_, rfl, .of_moveByte hget hpos (State.deliveredFrom_complete hlast)⟩
    · obtain ⟨t, ht, hdel⟩ := ih hinv hm (by rw [hpos, Nat.add_assoc, Nat.add_comm 1 n]; exact hn) rfl
      exact ⟨t, ht, .of_moveByte hget hpos hdel⟩

/-- The bytes the sink has, and those still to come, are OUTSEQ. -/
theorem State.RunOk.take_drop_sinkGot {s : State} (h : s.RunOk) :
    (((s.outseq.drop s.outPos.toNat).reverse ++ s.sinkGot).take s.outseq.length).reverse = s.outseq := by
  have hlen : s.outseq.length = (s.outseq.drop s.outPos.toNat).reverse.length + s.outPos.toNat := by
    have := h.inside
    simp; omega
  rw [hlen, List.take_length_add_append, List.reverse_append, h.delivered, List.reverse_reverse, List.take_append_drop]

/-- Settles O51: the rest of the run is delivered, and the sink had what is before it. -/
theorem runDeliversOutseq : Obligations.RunDeliversOutseq := by
  intro s rest hs hm hin
  have hrun := hs.run hm
  obtain ⟨t, ht, h, hpos⟩ := run_deliveredFrom _ hs hm (Nat.add_sub_of_le hrun.inside.le) hin
  refine ⟨t, ht, ?_⟩
  rw [h]
  exact ⟨rfl, rfl, hpos, rfl, rfl, hrun.take_drop_sinkGot, rfl, rfl, rfl, rfl, rfl⟩

/-- Settles O57: of the steps from RUN, the acceptance of the last byte, a sink error and a reset leave it. -/
theorem runEndsInStatedWays : Obligations.RunEndsInStatedWays := by
  intro s t hs hm h hm'
  obtain hf | ⟨rest, -, -, hin, -, -⟩ | ⟨rest, hin, rfl⟩ | ⟨e, rest, hin, he, rfl⟩ := step_of_run hm h
  · exact absurd (hf.mode.trans hm) hm'
  · obtain ⟨q, hstep, -, -, hend, hgot⟩ := step_sinkReady_of_run hs hm hin
    obtain rfl := Host.Outcome.next.inj (hstep.symm.trans h)
    obtain ⟨hlast, hx⟩ | ⟨-, hx, -⟩ := hend <;> rw [hx] at hm' ⊢
    · rw [hlast, List.take_length] at hgot
      exact ⟨_, rest, hin, rfl, .inl ⟨rfl, rfl, hlast, hgot⟩⟩
    · exact absurd hm hm'
  · have hrun := hs.run hm
    exact ⟨_, rest, hin, rfl, .inr (.inl ⟨rfl, by simp [hrun.notDone], by simp, fun he => by simp [he], by simp,
      by simpa using hrun.delivered⟩)⟩
  · exact ⟨e, rest, hin, rfl, .inr (.inr ⟨he, rfl, rfl, rfl⟩)⟩

/-! ### O21: an accepted START (R121) -/

/-- The port after START: OUTSEQ is not empty, and the pipeline stands for all of it. -/
theorem State.enterRun_outData {s : State} (hc : s.check = none) :
    s.loadFrame.enterRun.outseq[0]? = some s.loadFrame.enterRun.outData := by
  set t := s.loadFrame.enterRun
  obtain ⟨hcfg, -⟩ := State.check_none hc
  have hbc : t.bitCount.toNat = t.line.length := State.loadFrame_bitCount_eq hc
  have hne : 0 < t.outseq.length := (State.outseq_length hbc).symm ▸ State.outLen_pos (s := t) hcfg hbc
  obtain ⟨b, more, hout⟩ := List.exists_cons_of_length_pos hne
  have hcome : t.pipe.buf ++ t.restBytes t.pipe = b :: more := t.restBytes_start.trans hout
  obtain ⟨q, htake, -⟩ := State.takeByte_some (s := t) hcfg (by decide : 0 < 5) (by decide : 0 < 240)
    (List.length_replicate ..) hcome
  rw [State.outData_of_takeByte rfl htake, hout]
  rfl

/-- Settles O21: START is `loadFrame` and then `enterRun`; the frame fits FRAME_LEN and its line fits BIT_COUNT. -/
theorem startBuildsAndRuns : Obligations.StartBuildsAndRuns := by
  intro s hm hc n body fcs frame
  have hlen := s.buildFrame_length
  have hfits := State.buildFrame_fits hc
  simp only [Config.frameMax] at hfits
  have hbc := State.loadFrame_bitCount_eq hc
  rw [State.loadFrame_line hc] at hbc
  refine ⟨_, exec_start_of_check_none hm hc, rfl, rfl, ?frameLen, State.loadFrame_frameBytes hc, ?frameRest, rfl, hbc, rfl, rfl,
    State.enterRun_outData hc, rfl, rfl, rfl, rfl, rfl, rfl, rfl⟩
  case frameLen =>
    rw [State.enterRun_frameLen, State.loadFrame_frameLen, BitVec.toNat_ofNat, Nat.mod_eq_of_lt (by omega)]
    exact hlen
  case frameRest =>
    intro i hi
    exact Memory.read_writeAll_after _ _ (by rw [Nat.zero_add]; exact hi) _

/-! ### O22: the resets (R145 to R147 70_reset_and_hazards.md) -/

/-- The address entries after a reset (R146). -/
theorem Regs.reset_addr (e : Fin 10) :
    Regs.reset.addr[e].lo = (if e.val = 0 then 0x53525041#32 else 0x20202020#32) ∧ Regs.reset.addr[e].hi.setWidth 32 = 0x00002020#32 := by
  revert e; decide

theorem step_hwReset {s : State} {rest : List Event} (hin : s.inbox = .hwReset :: rest) :
    step s = .next (s.setInbox rest).resetCore := step_of_event hin rfl

/-- Every register but COEF_DATA reads its reset value (R146). -/
theorem State.readReg_resetCore (s : State) {r : Reg} (hr : r ≠ .coefData) : s.resetCore.readReg r = State.reset.readReg r := by
  cases r with
  | coefData => exact absurd rfl hr
  | _ => rfl

/-- Settles O22: both resets are `State.resetCore`, and each register reads a constant of `State.reset`. -/
theorem resetsGiveResetValues : Obligations.ResetsGiveResetValues := by
  intro s
  have herr : s.resetCore.readReg .errInfo = 0#32 := (s.readReg_resetCore (r := .errInfo) nofun).trans (by decide)
  have hcfg1 : s.resetCore.readReg .cfg1 = 0x00002032#32 := (s.readReg_resetCore (r := .cfg1) nofun).trans (by decide)
  refine ⟨s.resetCore, rfl, fun rest hin => step_hwReset hin, ?_⟩
  refine ⟨rfl, rfl, rfl, rfl, rfl, herr, rfl, hcfg1, rfl, rfl, rfl, rfl, rfl, rfl, rfl, rfl, Regs.reset_addr, rfl, rfl, rfl, ?_⟩
  exact ⟨fun _ => rfl, fun _ => rfl, rfl, rfl, rfl, rfl⟩

end Sys2Proof.Machine
end

section
/-! PROOFS. The statements of 60_exceptions.md: recording and clearing an error, ERRINFO and the interrupt, START's checks, illegal command words,
the sink's error, and FAULT (R128 to R136). -/

namespace Sys2Proof.Machine

/-! ### A step, update by update (R114 46_commands.md) -/

/-- The updates of the state that the event `e` can cause once it is out of the inbox. Of the guards only those are kept that say which event may
clear an error. No update enters FAULT: the monitor of R134 passes for every frame built. -/
inductive State.Update (e : Event) (s : State) : State → Prop
  | unchanged : s.Update e s
  | raise (k : ErrorKind) (i : Byte) : s.Update e (s.raise k i)
  | giveHost (v : Word) : s.Update e (s.giveHost v)
  | setCtrl (v : BitVec 2) : s.Update e (s.setCtrl v)
  | ackStatus {addr : Byte} {v : Word} (he : e = .hostWrite addr v) (hreg : regAt addr = some .status) : s.Update e (s.ackStatus v)
  | setWign : s.Update e s.setWign
  | pushCoef (v : Half) : s.Update e (s.pushCoef v)
  | setRegs (r : Regs) : s.Update e (s.setRegs r)
  | clearInfo : s.Update e s.clearInfo
  | pushInfoByte (b : Byte) : s.Update e (s.pushInfoByte b)
  | enterRun : s.Update e s.loadFrame.enterRun
  | moveByte (b : Byte) (q : Pipe) : s.Update e (s.moveByte b q)
  | complete (b : Byte) (q : Pipe) : s.Update e (s.moveByte b q).complete
  | abort : s.Update e { s.raise .sinkWriteError 0xFF#8 with mode := .idle }
  | reset (he : e.isReset = true) : s.Update e s.resetCore

namespace State.Update

variable {e : Event} {s t : State}

theorem hostWrite {addr : Byte} {v : Word} (he : e = .hostWrite addr v) : s.Update e (s.hostWrite addr v) := by
  obtain h | ⟨-, h⟩ | ⟨hreg, h⟩ | ⟨-, h⟩ | ⟨-, -, h⟩ | ⟨-, r, -, -, -, h⟩ := s.hostWrite_cases addr v <;> rw [h]
  · exact unchanged
  · exact setCtrl _
  · exact ackStatus he hreg
  · exact setWign
  · exact pushCoef _
  · exact setRegs _

theorem push (b : Byte) : s.Update e (s.push b) := by
  obtain ⟨-, h⟩ | ⟨-, h⟩ := s.push_cases b <;> rw [h]
  · exact raise _ _
  · exact pushInfoByte b

/-- START raises an error or enters RUN: the residue of the CRC (R76) and the stuffing (R81) leave the monitor of R134 nothing to find. -/
theorem startRun : s.Update e s.startRun := by
  obtain ⟨k, i, -, h⟩ | ⟨-, -, h⟩ | ⟨-, hfail, -⟩ := s.startRun_cases
  · rw [h]; exact raise k i
  · rw [h]; exact enterRun
  · exact absurd s.monitorOk_buildFrame (Bool.eq_false_iff.mp hfail)

theorem exec {i : Instr} (hreset : i = .softReset → e.isReset = true) (h : Machine.exec i s = .next t) : s.Update e t := by
  obtain ⟨-, hx⟩ | ⟨hr, hx⟩ | ⟨-, -, -, hx⟩ | ⟨-, -, hx⟩ | ⟨b, -, -, hx⟩ | ⟨-, -, hx⟩ := exec_cases i s
    <;> obtain rfl := Host.Outcome.next.inj (hx.symm.trans h)
  · exact unchanged
  · exact reset (hreset hr)
  · exact setWign
  · exact clearInfo
  · exact push b
  · exact startRun

theorem sinkReady (h : Machine.sinkReady s = .next t) : s.Update e t := by
  obtain ⟨-, rfl⟩ | ⟨-, b, q, -, rfl⟩ := sinkReady_next h
  · exact unchanged
  · obtain h | h := (s.moveByte b q).afterMove_cases <;> rw [h]
    · exact moveByte b q
    · exact complete b q

theorem sinkError : s.Update e (Machine.sinkError s) := by
  obtain ⟨-, h⟩ | ⟨-, h⟩ := sinkError_cases s <;> rw [h]
  · exact abort
  · exact unchanged

/-- A step with an event in store is one update of the state without that event. -/
theorem step (h : Machine.step s = .next t) :
    (s.inbox = [] ∧ t = s) ∨ ∃ e rest, s.inbox = e :: rest ∧ (s.setInbox rest).Update e t := by
  obtain hnil | ⟨e, rest, hin, hcase⟩ := step_cases h
  · exact .inl hnil
  · refine .inr ⟨e, rest, hin, ?_⟩
    obtain ⟨w, i, hw, hd, hx⟩ | ⟨w, d, -, -, rfl⟩ | ⟨addr, -, rfl⟩ | ⟨addr, v, he, -, rfl⟩ | ⟨-, hx⟩ | ⟨-, rfl⟩
      | ⟨rfl, rfl⟩ := hcase
    · exact exec (fun hi => Event.isReset_of_decode hw (hi ▸ hd)) hx
    · exact raise _ _
    · exact giveHost _
    · exact hostWrite he
    · exact sinkReady hx
    · exact sinkError
    · exact reset rfl

/-! ### O55: FAULT is unreachable (R134) -/

theorem mode_ne_fault (h : s.Update e t) (hm : s.mode ≠ .fault) : t.mode ≠ .fault := by
  cases h with
  | raise k i => rwa [raise_mode]
  | enterRun | complete | abort | reset => nofun
  | _ => exact hm

end State.Update

/-- Settles O55: of all updates only the failed monitor would enter FAULT, and the monitor passes at every accepted START. -/
theorem faultModeUnreachable : Obligations.FaultModeUnreachable := by
  intro s t hm h
  obtain ⟨-, rfl⟩ | ⟨e, rest, -, hu⟩ := State.Update.step h
  · exact hm
  · exact hu.mode_ne_fault hm

/-! ### O9: what clears ERR and OVF (R135) -/

/-- An update other than a W1C write of STATUS or a reset keeps ERR and OVF where they are set. -/
theorem State.Update.keeps_errors_or_acks {e : Event} {s t : State} (h : s.Update e t) :
    ((s.err = true → t.err = true) ∧ (s.ovf = true → t.ovf = true)) ∨ e.isReset = true
      ∨ ∃ addr v, e = .hostWrite addr v ∧ regAt addr = some .status ∧ t = s.ackStatus v := by
  cases h with
  | reset he => exact .inr (.inl he)
  | ackStatus he hreg => exact .inr (.inr ⟨_, _, he, hreg, rfl⟩)
  | raise | abort => exact .inl ⟨fun _ => by simp, fun ho => by simp [ho]⟩
  | _ => exact .inl ⟨id, id⟩

/-- A W1C write of STATUS clears a bit only where it writes a 1 (R13 10_state.md). -/
theorem bit_of_cleared {a b : Bool} (h : a = true ∧ (a && !b) = false) : b = true := by
  obtain ⟨rfl, h⟩ := h
  simpa using h

/-- Settles O9: of the updates only a reset and the W1C write of STATUS clear one of the two. -/
theorem errorClearedOnlyByHostOrReset : Obligations.ErrorClearedOnlyByHostOrReset := by
  intro s t h hclear
  obtain ⟨-, rfl⟩ | ⟨e, rest, hin, hu⟩ := State.Update.step h
  · simp at hclear
  · refine ⟨e, rest, hin, ?_⟩
    obtain ⟨herr, hovf⟩ | he | ⟨addr, v, he, hreg, rfl⟩ := hu.keeps_errors_or_acks
    · obtain ⟨h1, h0⟩ | ⟨h1, h0⟩ := hclear
      · exact absurd (herr h1) (Bool.eq_false_iff.mp h0)
      · exact absurd (hovf h1) (Bool.eq_false_iff.mp h0)
    · exact .inl he
    · exact .inr ⟨addr, v, he, offset_of_regAt hreg, bit_of_cleared, bit_of_cleared⟩

/-! ### O20: START's checks (R130) -/

theorem Regs.format_isSome_iff (r : Regs) : r.format.isSome = true ↔ r.fmt ≠ 3#2 := by
  constructor
  · intro h
    obtain h | h | h := Regs.fmt_cases h <;> simp [h]
  · intro h
    have hcode : ∀ c : BitVec 2, c ≠ 3#2 → c = 0#2 ∨ c = 1#2 ∨ c = 2#2 := by decide
    obtain h | h | h := hcode r.fmt h
    · rw [Regs.format_of_fmt_zero h]; rfl
    · rw [Regs.format_of_fmt_one h]; rfl
    · rw [Regs.format_of_fmt_two h]; rfl

theorem Regs.configOk_iff (r : Regs) :
    r.configOk = true ↔ ¬ (r.npre = 0 ∨ r.npost = 0 ∨ r.fmt = 3#2 ∨ r.l.toNat = 0 ∨ 64 < r.l.toNat ∨ r.tpp.toNat = 0
      ∨ 4096 < r.l.toNat * r.tpp.toNat ∨ 256 < r.infoMax.toNat) := by
  simp only [Regs.configOk, Bool.and_eq_true, bne_iff_ne, decide_eq_true_eq, Regs.format_isSome_iff, not_or, Nat.not_lt, and_assoc]
  rfl

theorem AddrEntry.ok_iff {e : AddrEntry} : e.ok = true ↔ e.callOk = true ∧ e.ssidOk = true := by
  rw [AddrEntry.ok, Bool.and_eq_true]

theorem Regs.badEntry_eq_find? (r : Regs) (k n : Nat) :
    r.badEntry k n = (List.range' k n).find? fun e => !(r.entry e).ok := by
  induction n generalizing k with
  | zero => rfl
  | succ n ih => cases h : (r.entry k).ok <;> simp [Regs.badEntry, List.range'_succ, h, ih]

theorem Regs.badEntry_eq_some {r : Regs} {k n e : Nat} (hk : k ≤ e) (hn : e < k + n) (hfirst : ∀ j, k ≤ j → j < e → (r.entry j).ok = true)
    (hbad : (r.entry e).ok = false) : r.badEntry k n = some e := by
  rw [Regs.badEntry_eq_find?, List.find?_range'_eq_some]
  exact ⟨by simpa using hbad, List.mem_range'_1.mpr ⟨hk, hn⟩, fun j hj hje => by simpa using hfirst j hj hje⟩

theorem Regs.badEntry_eq_none {r : Regs} {k n : Nat} (h : ∀ j, k ≤ j → j < k + n → (r.entry j).ok = true) : r.badEntry k n = none := by
  rw [Regs.badEntry_eq_find?, List.find?_range'_eq_none]
  exact fun j hj hjn => by simpa using h j hj hjn

theorem exec_start_of_check_some {s : State} (hm : s.mode = .idle) {k : ErrorKind} {i : Byte} (hc : s.check = some (k, i)) :
    exec .start s = .next (s.raise k i) := by
  simp [exec, execStart, State.locked_iff, hm, State.startRun, hc]

/-- Settles O20: each clause says how every check up to the first that fails comes out. -/
theorem startChecksInOrder : Obligations.StartChecksInOrder := by
  intro s hm bad ok
  have hconfig : s.regs.configOk = true ↔ ¬ bad := s.regs.configOk_iff
  have hgood (hb : ¬ bad) : s.regs.configOk = true := hconfig.mpr hb
  have hok (e : Nat) (h : ok e) : (s.regs.entry e).ok = true := AddrEntry.ok_iff.mpr h
  have hnot (e : Nat) (h : ¬ ok e) : (s.regs.entry e).ok = false := Bool.eq_false_iff.mpr (mt AddrEntry.ok_iff.mp h)
  have hpath (h : ∀ j, 2 ≤ j → j ≤ 1 + s.regs.ndigi → ok j) : s.regs.badEntry 2 s.regs.ndigi = none :=
    Regs.badEntry_eq_none fun j hj hjn => hok j (h j hj (by omega))
  refine ⟨?config, ?destination, ?source, ?count, ?digipeater, ?info, ?accepted⟩
  case config =>
    intro hb
    have hc : s.regs.configOk = false := Bool.eq_false_iff.mpr fun h => hconfig.mp h hb
    exact exec_start_of_check_some hm (by simp [State.check, hc])
  case destination =>
    intro hb h0
    exact exec_start_of_check_some hm (by simp [State.check, hgood hb, hnot 0 h0])
  case source =>
    intro hb h0 h1
    exact exec_start_of_check_some hm (by simp [State.check, hgood hb, hok 0 h0, hnot 1 h1])
  case count =>
    intro hb h0 h1 hn
    exact exec_start_of_check_some hm (by simp [State.check, hgood hb, hok 0 h0, hok 1 h1, Config.maxDigi, hn])
  case digipeater =>
    intro hb h0 h1 hn e he hen hfirst hbad
    have hfind : s.regs.badEntry 2 s.regs.ndigi = some e :=
      Regs.badEntry_eq_some he (by omega) (fun j hj hje => hok j (hfirst j hj hje)) (hnot e hbad)
    exact exec_start_of_check_some hm (by simp [State.check, hgood hb, hok 0 h0, hok 1 h1, Config.maxDigi, hn.not_gt, hfind])
  case info =>
    intro hb h0 h1 hn hall hlen
    exact exec_start_of_check_some hm
      (by simp [State.check, hgood hb, hok 0 h0, hok 1 h1, Config.maxDigi, hn.not_gt, hpath hall, hlen])
  case accepted =>
    intro hb h0 h1 hn hall hlen
    simp [State.check, hgood hb, hok 0 h0, hok 1 h1, Config.maxDigi, hn.not_gt, hpath hall, hlen.not_gt]

/-! ### O4: an illegal command word (R132) -/

theorem decode_error_of_no_row {w : Word} (h : ∀ r, r ∈ opcodeMap → w &&& r.mask ≠ r.pattern) : ∃ d, decode w = .error d := by
  cases hd : decode w with
  | error d => exact ⟨d, rfl⟩
  | ok i =>
    obtain ⟨hrow, hmatch⟩ := opcodeMapSelectsCommand.2.2.1 w i hd
    exact absurd hmatch (h _ hrow)

/-- Settles O4: a word that matches no row decodes to no command. -/
theorem illegalWordRaises : Obligations.IllegalWordRaises := by
  intro s addr w rest hin hoff hrow
  obtain ⟨d, hd⟩ := decode_error_of_no_row hrow
  exact step_of_illegal hin (by simp [commandWord, regAt_eq_cmd_iff.mpr hoff]) hd

/-! ### O6: recording an error (R129) -/

theorem State.raise_of_err {s : State} (h : s.err = true) (k : ErrorKind) (i : Byte) : s.raise k i = { s with ovf := true } := by
  rw [State.raise, if_pos h]

theorem State.raise_of_no_err {s : State} (h : s.err = false) (k : ErrorKind) (i : Byte) :
    s.raise k i = { s with errKind := k, errIndex := i, err := true } := by
  rw [State.raise, if_neg (Bool.eq_false_iff.mp h)]

/-- Settles O6, by the two branches of `State.raise`; either leaves ERR set, so irq is DONE's part or IE_ERR. -/
theorem raiseRecordsFirstError : Obligations.RaiseRecordsFirstError := by
  intro s k index
  refine ⟨fun h => ⟨State.raise_of_no_err h k index, ?_⟩, fun h => State.raise_of_err h k index, ?_⟩
  · rw [State.raise_of_no_err h]; rfl
  · simp [State.irq, State.ieDone, State.ieErr]

/-! ### O7: ERRINFO's fields (R21 10_state.md, R128) -/

theorem State.errInfoWord_toNat (s : State) : s.errInfoWord.toNat = s.errIndex.toNat * 2 ^ 8 + s.errKind.code := by
  have hcode := s.errKind.code_lt
  rw [State.errInfoWord, BitVec.toNat_ofNat, Nat.mod_eq_of_lt (by omega)]

/-- The codes 8 to 15 are never produced (R128). -/
theorem ErrorKind.code_lt_eight (k : ErrorKind) : k.code < 8 := by cases k <;> decide

/-- Settles O7: the word is index · 256 + code, and no code reaches bit 3. -/
theorem errorCodesReadBack : Obligations.ErrorCodesReadBack := by
  intro s
  have hword : (s.readReg .errInfo).toNat = s.errIndex.toNat * 2 ^ 8 + s.errKind.code := s.errInfoWord_toNat
  have hcode := s.errKind.code_lt_eight
  have hfield (lo len : Nat) : ((s.readReg .errInfo).extractLsb' lo len).toNat
      = (s.errIndex.toNat * 2 ^ 8 + s.errKind.code) / 2 ^ lo % 2 ^ len := by
    rw [BitVec.extractLsb'_toNat, hword, Nat.shiftRight_eq_div_pow]
  refine ⟨?code, ?index, ?low, ?high⟩
  case code =>
    calc ((s.readReg .errInfo).extractLsb' 0 4).toNat = s.errKind.code := by rw [hfield]; omega
      _ = _ := by cases s.errKind <;> rfl
  case index => exact BitVec.eq_of_toNat_eq (by rw [hfield]; omega)
  case low => exact BitVec.eq_of_toNat_eq (by rw [hfield, BitVec.toNat_ofNat]; omega)
  case high => exact BitVec.eq_of_toNat_eq (by rw [hfield, BitVec.toNat_ofNat]; omega)

/-! ### O10: the interrupt level (R136) -/

/-- Settles O10: of the seven bits of STATUS only irq stands at bit 6. -/
theorem irqFollowsDoneAndErr : Obligations.IrqFollowsDoneAndErr := by
  intro s
  refine ⟨rfl, ?_⟩
  have hbit (b : Bool) (k : Nat) : (if b then 1#32 <<< k else 0#32).getLsbD 6 = (b && (1#32 <<< k).getLsbD 6) := by cases b <;> simp
  simp only [State.readReg, State.statusWord_eq_or, BitVec.getLsbD_or, hbit]
  simp

/-! ### O50: a sink error (R133) -/

theorem step_sinkError {s : State} {rest : List Event} (hin : s.inbox = .sinkError :: rest) :
    step s = .next (sinkError (s.setInbox rest)) := step_of_event hin rfl

/-- Settles O50, by the two branches of `sinkError`; the raise before the mode's change touches ERR, OVF and ERRINFO only. -/
theorem sinkErrorAbortsRun : Obligations.SinkErrorAbortsRun := by
  intro s rest hin
  rw [step_sinkError hin]
  obtain ⟨hm, h⟩ | ⟨hm, h⟩ := sinkError_cases (s.setInbox rest) <;> rw [h]
  · exact ⟨fun _ => ⟨_, rfl, rfl, by simp, by simp, rfl, by simp⟩, fun hne => absurd hm hne⟩
  · exact ⟨fun hr => absurd hr hm, fun _ => rfl⟩

end Sys2Proof.Machine
end

section
/-! PROOFS. The statement of 70_reset_and_hazards.md: the state after reset meets the invariant (R146). -/

namespace Sys2Proof.Machine

/-- After reset no word of any memory is written, and the empty list is canonical. -/
theorem State.reset_memOk : State.reset.MemOk := ⟨rfl, rfl, rfl⟩

/-- After reset INFO_LEN, the ones counter and the DDS phase are 0 (R146), and ERR = 0. -/
theorem State.reset_regOk : State.reset.RegOk := by
  refine ⟨?infoLen, ?ones, ?phi, ?err⟩
  case infoLen => exact Nat.zero_le _
  case ones => exact Nat.zero_lt_succ _
  case phi => exact Nat.zero_lt_succ _
  case err => exact nofun

/-- Settles O53: the mode after reset is IDLE, where the invariant is that of the memories and the registers. -/
theorem resetMeetsInvariant : Obligations.ResetMeetsInvariant :=
  have hidle : State.reset.mode ≠ .run := nofun
  .of_not_run hidle State.reset_memOk State.reset_regOk

end Sys2Proof.Machine
end
